-- ==== Sys2Proof/Word.lean ====
section
/-! DEFINITION. The words of the block (spec/00_scope.md rules R10 and R11): bytes, 16-bit values and byte
strings. The model's other files build on these three names only. -/

namespace Sys2Proof

/-- A byte is an 8-bit unsigned value (rule R10). -/
abbrev Byte := BitVec 8

/-- A 16-bit value: the checksum, the cursors and SCRATCH_LEN (rules R23 to R27). -/
abbrev Half := BitVec 16

/-- A finite sequence of bytes, index 0 first on the wire and lowest in memory (rule R11). -/
abbrev Bytes := List Byte

end Sys2Proof
end

