-- ==== Sys2Proof/Config.lean ====
section
/-! DEFINITION. What an implementation fixes (spec/00_scope.md rule R7) and the free values. The parameters
are a record that State carries unchanged, so that every statement holds for every admitted configuration
(notes/assumptions/4.md). The open parameters and the free values are constants without a body: no proof can
see a value of theirs. -/

namespace Sys2Proof

/-- The build-time parameters of rule R7, "fixed for the lifetime of the hardware". The widths W_CUR and W_LEN
are 16 (decision D21) and are the widths of State's fields. -/
structure Config where
  /-- `F`, the frame size in bytes. -/
  F : Nat
  /-- `P`, the prefix size in bytes. -/
  P : Nat
  /-- `C`, the capacity of the accumulation buffer in bytes. -/
  C : Nat
  /-- `PAGE_SIZE`, the erase granularity of the external commit stage; informative only. -/
  pageSize : Nat
  /-- `COMMIT_BASE`, the target address passed to the commit stage; open (decision D16). -/
  commitBase : Nat
  /-- `COMMIT_LEN_INCLUDES_TRAILER`; open (decision D15). -/
  commitLenIncludesTrailer : Bool
  /-- `REPLY_TAG`, the reply line's fixed prefix tag; open (decision D12). -/
  replyTag : Bytes
  /-- `REPLY_EOL`, the reply line's fixed line ending; open (decision D12). -/
  replyEol : Bytes
  /-- `DURABLE_FLAG`, the argument of `send` that selects durable storage; open, parser side (decision D19). -/
  durableFlag : Bytes
deriving DecidableEq, Repr

/-- `COMMIT_BASE` of the default configuration: OPEN, no value is known (rule R7, U14). -/
opaque Config.openCommitBase : Nat

/-- `COMMIT_LEN_INCLUDES_TRAILER` of the default configuration: OPEN (rule R7, U14). -/
opaque Config.openCommitLenIncludesTrailer : Bool

/-- `REPLY_TAG` of the default configuration: OPEN (rule R7, U14). -/
opaque Config.openReplyTag : Bytes

/-- `REPLY_EOL` of the default configuration: OPEN (rule R7, U14). -/
opaque Config.openReplyEol : Bytes

/-- `DURABLE_FLAG` of the default configuration: OPEN (rule R7, U14). -/
opaque Config.openDurableFlag : Bytes

/-- The default configuration SEEDCLI-CORE/CRC16-8408-FFFF-LSB/F64-P4-C65536 (rules R2 and R7). -/
def Config.seedcli : Config where
  F := 64
  P := 4
  C := 65536
  pageSize := 4096
  commitBase := Config.openCommitBase
  commitLenIncludesTrailer := Config.openCommitLenIncludesTrailer
  replyTag := Config.openReplyTag
  replyEol := Config.openReplyEol
  durableFlag := Config.openDurableFlag

/-- FREE VALUE: what CRC holds after the RESET operation, "unspecified (no value)" (rules R25 and R230, U2); the
argument is the draw's number (notes/assumptions/2.md). -/
opaque Config.freeCrc : Nat → Half

/-- FREE VALUE: whether RST is taken before an answer that is present with it while an operation waits for that
answer; the spec orders RST only against a waiting CHUNK_IN (rule R208) (notes/assumptions/6.md). -/
opaque Config.rstBeforeAnswer : Nat → Bool

end Sys2Proof
end

