-- ==== Sys2Proof/Machine/Params.lean ====
section
/-! DEFINITION. The values derived from the build-time parameters, and which configurations are admitted
(spec/00_scope.md rules R7 and R8). -/

namespace Sys2Proof.Machine

/-- `N = F - P`, the payload bytes of a frame (rule R7). -/
def payloadSize (c : Config) : Nat := c.F - c.P

/-- `MAXF = floor((C-1)/N)`, the largest data-frame count of one transfer (rules R7 and R133). -/
def maxFrames (c : Config) : Nat := (c.C - 1) / payloadSize c

/-- The conditions (a) to (d) of rule R8 under which a configuration is admitted. -/
def admitted (c : Config) : Bool :=
  decide (c.P = 4) && decide (c.P < c.F) && decide ((c.C - 1) % payloadSize c ≠ 0) &&
    decide (maxFrames c < 2 ^ 16) && decide (c.F < 2 ^ 16)

/-- `commit_len(L)` (rule R129). -/
def commitLen (c : Config) (L : Nat) : Nat :=
  if c.commitLenIncludesTrailer then L + 2 else L

/-- `paddedLength = ceil(length / pageSize) * pageSize`: how many bytes the external commit stage reads (rules
R65 and R129); the block does not compute it. -/
def paddedLength (c : Config) (length : Nat) : Nat :=
  (length + c.pageSize - 1) / c.pageSize * c.pageSize

end Sys2Proof.Machine
end

