-- ==== Sys2Proof/Syntax.lean ====
section
/-! DEFINITION. The operations of the block: one constructor per row of spec/opcode_table.json (rule R1). A bit
that a row's mask leaves free, and an operand a row's rule names, is an argument, so that an operation holds
every bit of its encoding. -/

namespace Sys2Proof

/-- The 21 operations of spec/opcode_table.json. -/
inductive Instr where
  /-- DISPATCH_CMD, `DSEL = 000s`: a command line in Idle (rule R155); `sent` is ignored (rule R77). -/
  | dispatchCmd (sent : Bool)
  /-- DISPATCH_CMD_TOOLONG, `DSEL = 001s`: an over-length chunk in Idle (rule R156). -/
  | dispatchCmdToolong (sent : Bool)
  /-- DISPATCH_SV_DATA, `DSEL = 0100`: a data frame in a volatile transfer (rule R157). -/
  | dispatchSvData
  /-- DISPATCH_SV_STOP, `DSEL = 0101`: the sentinel frame of a volatile transfer (rule R158). -/
  | dispatchSvStop
  /-- DISPATCH_SV_TOOLONG, `DSEL = 011s`: an over-length chunk in a volatile transfer (rule R159). -/
  | dispatchSvToolong (sent : Bool)
  /-- DISPATCH_SD_DATA, `DSEL = 1000`: a data frame in a durable transfer (rule R160). -/
  | dispatchSdData
  /-- DISPATCH_SD_STOP, `DSEL = 1001`: the sentinel frame of a durable transfer (rule R161). -/
  | dispatchSdStop
  /-- DISPATCH_SD_TOOLONG, `DSEL = 101s`: an over-length chunk in a durable transfer (rule R162). -/
  | dispatchSdToolong (sent : Bool)
  /-- DISPATCH_RESERVED, `DSEL = 11ts`: SESSION is the reserved value (rule R163). -/
  | dispatchReserved (tooLong sent : Bool)
  /-- FRAME_STOP, `PFX32 = 0x73746F70`: the frame class of the sentinel (rules R74 and R121). -/
  | frameStop
  /-- FRAME_DATA, every other `PFX32`: the frame class of a data frame, with its ignored index (rules R74, R120
  and R130). -/
  | frameData (index : BitVec 32)
  /-- INGEST_DATA_V, `ISEL = 00` (rule R124). -/
  | ingestDataV
  /-- INGEST_STOP_V, `ISEL = 01` (rule R125). -/
  | ingestStopV
  /-- INGEST_DATA_D, `ISEL = 10` (rule R127). -/
  | ingestDataD
  /-- INGEST_STOP_D, `ISEL = 11` (rule R128). -/
  | ingestStopD
  /-- TRAILER_WRITE, an internal step with operands `L` and `crc` (rule R126). -/
  | trailerWrite (L : Nat) (crc : Half)
  /-- CRC_SEED, `CRCOP = 00` (rule R101). -/
  | crcSeed
  /-- CRC_BYTE, `CRCOP = 01`, with its input byte (rule R103). -/
  | crcByte (d : Byte)
  /-- CRC_RANGE, `CRCOP = 10`, with its length (rule R104). -/
  | crcRange (L : Nat)
  /-- CRC_BIT, an internal step (rule R102). -/
  | crcBit
  /-- RESET, `CTRL.RST = 1` (rule R230). -/
  | reset
deriving DecidableEq, Repr

end Sys2Proof
end

