-- ==== Sys2Proof/Machine/State.lean ====
section
/-! DEFINITION. The state of the block as plain data (spec/10_state.md, spec/20_memory.md), its ports (rules
R32 to R40), the reasons a step can stop, and the state after reset. INVENTORY.md lists every field with its
rule and its reset value. -/

namespace Sys2Proof.Machine

/-- The accumulation buffer ACC (rule R50): the bytes that have a value, as address and byte, addresses
strictly rising. An address that is not listed has no value yet; reading it is the model fault ACCESS_RANGE
(rule R51, notes/assumptions/3.md). -/
abbrev Memory := List Host.Cell

/-- The canonical form of a memory: addresses strictly rising. (No entry can equal what an unlisted address
reads as, since that is no value.) -/
def Memory.wf : Memory → Bool
  | [] => true
  | [_] => true
  | a :: b :: rest => decide (a.1 < b.1) && Memory.wf (b :: rest)

/-- The two destinations of a transfer (rules R3, R78 and R202). -/
inductive Dest where
  /-- The volatile destination, session state StreamingToVolatile. -/
  | volatile
  /-- The durable destination, session state StreamingToDurable. -/
  | durable
deriving DecidableEq, Repr

/-- The status codes of a reply (rule R82); codes 5 to 7 are reserved and never produced. -/
inductive Status where
  | ok
  | err
  | warn
  | rdy
  | fnsh
deriving DecidableEq, Repr

/-- A reply record `(status, detail)` (rule R81). -/
structure Reply where
  status : Status
  detail : Option Bytes
deriving DecidableEq, Repr

/-- One response of the PARSE port: the reply record and the 2-bit transition code, 0 NONE, 1 TO_VOLATILE,
2 TO_DURABLE, 3 invalid (rules R34 and R83). -/
structure ParseAnswer where
  reply : Reply
  transition : BitVec 2
deriving DecidableEq, Repr

/-- One response of the COMMIT port (rules R35 and R84). -/
inductive CommitAnswer where
  | ok
  | fail
deriving DecidableEq, Repr

/-- What an ERR_EVT event carries: the error and its info fields (rules R201 to R204). -/
inductive ErrEvent where
  /-- TRANSFER_OVERFLOW with `(dest, frames)` (rule R202). -/
  | transferOverflow (dest : Dest) (frames : Nat)
  /-- COMMIT_FAILURE with `(crc, length)` (rule R203). -/
  | commitFailure (crc : Half) (length : Nat)
  /-- CHUNK_TOO_LONG with `(state, len, frames)` (rule R204). -/
  | chunkTooLong (state : BitVec 2) (len frames : Nat)
deriving DecidableEq, Repr

/-- One port event (rule R40). -/
inductive Event where
  /-- Acceptance of a CHUNK_IN transaction (rule R32). -/
  | chunkIn (b : Bytes)
  /-- AUDIO_PAUSE (rule R36). -/
  | audioPause
  /-- A PARSE request `(line, len)` (rule R34). -/
  | parseRequest (line : Bytes) (len : Nat)
  /-- The PARSE response (rule R34). -/
  | parseResponse (answer : ParseAnswer)
  /-- A COMMIT request `(length, target_address)` (rule R35). -/
  | commitRequest (length target : Nat)
  /-- The COMMIT response (rule R35). -/
  | commitResponse (answer : CommitAnswer)
  /-- ERR_EVT (rule R37). -/
  | errEvt (e : ErrEvent)
  /-- REPLY_OUT (rule R33). -/
  | replyOut (r : Reply)
  /-- AUDIO_RESUME (rule R36). -/
  | audioResume
  /-- RST (rule R39). -/
  | rst
deriving DecidableEq, Repr

/-- The ingestion result RES with the checksum it carries (rule R80). -/
inductive IngestResult where
  /-- CONTINUE, code 0. -/
  | contin
  /-- COMPLETE, code 1. -/
  | complete (crc : Half)
  /-- OVERFLOW, code 2. -/
  | overflow
  /-- COMMIT_FAILED, code 3. -/
  | commitFailed (crc : Half)
deriving DecidableEq, Repr

/-- The model fault reasons (rules R201 and R205). -/
inductive FaultReason where
  /-- SESSION is 0b11 at selection (rule R163). -/
  | reservedState
  /-- The PARSE oracle answers transition code 3 (rule R155). -/
  | parserContract
  /-- An access outside ACC, or a read of a byte without a value (rule R51). -/
  | accessRange
deriving DecidableEq, Repr

/-- Whether an operation is in flight: none between operations; otherwise it waits for an oracle's answer,
the only waiting points there are (rules R150, R168, R169 and R231). -/
inductive Phase where
  /-- No operation in flight: the block is not busy. -/
  | between
  /-- DISPATCH_CMD waits for the PARSE response (rule R168). -/
  | waitParse
  /-- INGEST_STOP_D, inside DISPATCH_SD_STOP, waits for the COMMIT response (rule R169): the checksum, the
  length requested, and ACC as the last completed operation left it, which BUF_RD goes on reading (rule R38). -/
  | waitCommit (crc : Half) (length : Nat) (before : Memory)
deriving DecidableEq, Repr

/-- The state of the block, its ports, its build-time parameters, and two fields of the model's own. -/
structure State where
  /-- The build-time parameters (rule R7); no operation writes them. -/
  cfg : Config
  /-- SESSION: 0b00 Idle, 0b01 StreamingToVolatile, 0b10 StreamingToDurable, 0b11 reserved (rule R22). -/
  session : BitVec 2
  /-- CUR_V, the volatile write cursor in frames (rule R23). -/
  curV : Half
  /-- CUR_D, the durable write cursor in frames (rule R24). -/
  curD : Half
  /-- CRC, the checksum working register (rule R25). -/
  crc : Half
  /-- SCRATCH, the frame scratch buffer, F bytes (rule R26). -/
  scratch : Bytes
  /-- SCRATCH_LEN (rule R27). -/
  scratchLen : Half
  /-- FAULT, sticky: set exactly when a reason is there (rule R28, notes/assumptions/7.md). -/
  fault : Option FaultReason
  /-- ACC, the accumulation buffer (rule R50). -/
  acc : Memory
  /-- Busy or not, and what is waited for (rule R150). -/
  phase : Phase
  /-- RES, the sequencer's result wire, written where an ingestion operation runs on its own; the model's own
  field (rule R80, notes/assumptions/9.md). -/
  res : Option IngestResult
  /-- CHUNK_IN: the chunks the transport offers, oldest first (rules R32 and R212). -/
  chunkIn : List Bytes
  /-- RST: the reset input is asserted (rules R39 and R89). -/
  rstIn : Bool
  /-- PARSE responses: the parser's draws, oldest first (rule R34). -/
  parseIn : List ParseAnswer
  /-- COMMIT responses: the commit stage's draws, oldest first (rule R35). -/
  commitIn : List CommitAnswer
  /-- The port event trace, oldest first (rule R40). -/
  trace : List Event
  /-- How many free values have been drawn; the model's own field (notes/assumptions/15.md). -/
  draws : Nat
deriving DecidableEq, Repr

/-- The reasons for which a step stops with a fault. -/
inductive Fault where
  /-- Raised by `step` and by every operation of `exec` when FAULT = 1: "While FAULT = 1 no operation has a
  step" (rule R28); it carries the reason the mark was set for (rule R205). Safe: the machine stops where the
  spec says that nothing can be proved. -/
  | faultMark (r : FaultReason)
deriving DecidableEq, Repr

/-- The reasons for which a step is refused. -/
inductive Refusal where
  /-- Raised by `exec` for an operation without a meaning; no arm does. Safe. -/
  | notModelled (mnemonic : String)
  /-- Raised by `step` and by every operation of `exec` under a configuration that fails rule R8: "A model
  refuses any configuration that fails a condition". Safe. -/
  | badConfiguration
deriving DecidableEq, Repr

/-- The machine right after power-up and reset (rules R22 to R31 and R230) in the default configuration: Idle,
cursors 0, scratch zero, no byte of ACC with a value, FAULT 0, nothing in flight, nothing at the ports. CRC has
no value in the spec: 0 is the model's choice (notes/assumptions/1.md), as are the empty ports
(notes/assumptions/5.md) and the two fields of the model's own (notes/assumptions/9.md and 15.md). -/
def State.reset : State where
  cfg := Config.seedcli
  session := 0b00#2
  curV := 0
  curD := 0
  crc := 0
  scratch := List.replicate 64 0
  scratchLen := 0
  fault := none
  acc := []
  phase := .between
  res := none
  chunkIn := []
  rstIn := false
  parseIn := []
  commitIn := []
  trace := []
  draws := 0

end Sys2Proof.Machine
end

