-- ==== Sys2Proof/Machine/Ops.lean ====
section
/-! DEFINITION. The named operations every meaning is built from: the accumulation buffer (spec/20_memory.md),
events (rule R12), the model fault, raising an error (spec/60_exceptions.md), and how an operation ends. -/

namespace Sys2Proof.Machine

/-- `zeros(n)` (rule R11). -/
def zeros (n : Nat) : Bytes := List.replicate n 0

/-- `le16(v)`: the 2-byte string `v[7:0], v[15:8]` (rule R11). -/
def le16 (v : Half) : Bytes := [v.extractLsb' 0 8, v.extractLsb' 8 8]

/-! ### The accumulation buffer -/

/-- The value of the byte at an address, absent if it has none (rule R50). -/
def memGet : Memory → Nat → Option Byte
  | [], _ => none
  | cell :: rest, a => if a = cell.1 then some cell.2 else memGet rest a

/-- Give the byte at an address a value, keeping the addresses strictly rising. -/
def memSet : Memory → Nat → Byte → Memory
  | [], a, b => [(a, b)]
  | cell :: rest, a, b =>
    if a < cell.1 then (a, b) :: cell :: rest
    else if a = cell.1 then (a, b) :: rest
    else cell :: memSet rest a b

/-- The `n` bytes from an offset on, absent if one of them has no value. -/
def memGetN (m : Memory) (off : Nat) : Nat → Option Bytes
  | 0 => some []
  | n + 1 =>
    match memGet m off, memGetN m (off + 1) n with
    | some b, some rest => some (b :: rest)
    | _, _ => none

/-- Store a byte string from an offset on: `ACC[off + i] <- v[i]` (rule R51). -/
def memSetN (m : Memory) (off : Nat) : Bytes → Memory
  | [] => m
  | b :: rest => memSetN (memSet m off b) (off + 1) rest

/-! ### How an operation can go -/

/-- The result of an operation or of a part of one: it is done with a value; or it waits for an oracle's
answer, a hold (rules R168 and R169); or it met `fault` and stopped with no further event (rule R12). -/
inductive Attempt (α : Type) where
  | done (a : α) (s : State)
  | waiting (s : State)
  | faulted (s : State)
deriving Repr

/-- What follows is run only if what came before is done. -/
def Attempt.andThen {α β : Type} (r : Attempt α) (f : α → State → Attempt β) : Attempt β :=
  match r with
  | .done a s => f a s
  | .waiting s => .waiting s
  | .faulted s => .faulted s

/-- `emit PORT(args)`: record one event (rule R12). -/
def emit (e : Event) (s : State) : State := { s with trace := s.trace ++ [e] }

/-- `fault F`: set the sticky FAULT mark; the operation stops (rules R12, R28 and R205). -/
def markFault (r : FaultReason) (s : State) : State := { s with fault := some r }

/-- `MemRead(off, n)`: the bytes `ACC[off, off+n)`; outside `ACC[0, C)`, or where a byte has no value, the model
fault ACCESS_RANGE (rules R51 and R205). -/
def memRead (off n : Nat) (s : State) : Attempt Bytes :=
  if off + n ≤ s.cfg.C then
    match memGetN s.acc off n with
    | some v => .done v s
    | none => .faulted (markFault .accessRange s)
  else .faulted (markFault .accessRange s)

/-- `MemWrite(off, n, v)` with `n` the length of `v`; outside `ACC[0, C)` the model fault ACCESS_RANGE, and no
byte is written (rules R51 and R205). -/
def memWrite (off : Nat) (v : Bytes) (s : State) : Attempt Unit :=
  if off + v.length ≤ s.cfg.C then .done () { s with acc := memSetN s.acc off v }
  else .faulted (markFault .accessRange s)

/-! ### Raising an error

The block has no trap mechanism: no vector, no handler, no saved program counter (rule R200), and no
return-from-error operation: the next chunk is processed in Idle (rule R210). -/

/-- `raise E(info)`: record `ERR_EVT(E, info)` and perform the recovery action, which for each of the three
errors is `SESSION <- Idle` (rules R12 and R200 to R204); what else an error changes, the operation that raises
it has done before. -/
def raise (e : ErrEvent) (s : State) : State :=
  { emit (.errEvt e) s with session := 0b00#2 }

/-- The error code of an ERR_EVT event (rule R201). -/
def errCode : ErrEvent → BitVec 3
  | .transferOverflow _ _ => 1#3
  | .commitFailure _ _ => 2#3
  | .chunkTooLong _ _ _ => 3#3

/-! ### Acceptance and epilogue -/

/-- Every operation runs only in an admitted configuration (rule R8) and while FAULT = 0 (rule R28). -/
def operate (s : State) (result : Host.Outcome State Fault Refusal) : Host.Outcome State Fault Refusal :=
  if admitted s.cfg then
    match s.fault with
    | none => result
    | some r => .fault (.faultMark r)
  else .refused .badConfiguration

/-- The epilogue of a dispatch operation: scratch cleared, AUDIO_RESUME (rule R165). -/
def epilogue (s : State) : State :=
  emit .audioResume { s with scratch := zeros s.cfg.F, scratchLen := 0 }

/-- A dispatch operation ends: when it is done the epilogue runs; when it waits it is held in its phase; after
`fault` there is no epilogue (rule R165). -/
def finish (r : Attempt Unit) : Host.Outcome State Fault Refusal :=
  match r with
  | .done _ s => .next (epilogue s)
  | .waiting s => .next s
  | .faulted s => .next s

/-- A step that is no dispatch operation ends without an epilogue (rules R126 and R101 to R104). -/
def settle {α : Type} (r : Attempt α) : Host.Outcome State Fault Refusal :=
  match r with
  | .done _ s => .next s
  | .waiting s => .next s
  | .faulted s => .next s

/-- An ingestion operation run on its own leaves its result on the wire RES (rule R80). -/
def settleResult (r : Attempt IngestResult) : Host.Outcome State Fault Refusal :=
  match r with
  | .done res s => .next { s with res := some res }
  | .waiting s => .next s
  | .faulted s => .next s

/-! ### The read ports and the inputs -/

/-- ACC as of the last completed operation: while an operation waits for COMMIT, what it was before that
operation began (rules R38 and R58). -/
def visibleAcc (s : State) : Memory :=
  match s.phase with
  | .waitCommit _ _ before => before
  | .between => s.acc
  | .waitParse => s.acc

/-- BUF_RD: `MemRead(off, n)` as of the last completed operation; it never changes state and is never blocked
(rule R38). A request outside `ACC[0, C)` or for a byte without a value gets no value (rule R51). -/
def State.bufRd (s : State) (off n : Nat) : Except FaultReason Bytes :=
  if off + n ≤ s.cfg.C then
    match memGetN (visibleAcc s) off n with
    | some v => .ok v
    | none => .error .accessRange
  else .error .accessRange

/-- The commit stage's read access: any byte of `ACC[0, C)` while its request is open, the trailer included;
no access otherwise (rule R65). A byte without a value gives none. -/
def State.commitRead (s : State) (off : Nat) : Option Byte :=
  match s.phase with
  | .waitCommit _ _ _ => if off < s.cfg.C then memGet s.acc off else none
  | .between => none
  | .waitParse => none

/-- What the outside world can do to the block between steps (rule R212). -/
inductive Input where
  /-- The transport offers a chunk; it waits there until it is accepted. -/
  | chunk (b : Bytes)
  /-- The parser gives an answer. -/
  | parseAnswer (a : ParseAnswer)
  /-- The commit stage gives an answer. -/
  | commitAnswer (a : CommitAnswer)
  /-- RST is asserted. -/
  | rst
deriving DecidableEq, Repr

/-- The state after an input has arrived at its port. -/
def deliver (i : Input) (s : State) : State :=
  match i with
  | .chunk b => { s with chunkIn := s.chunkIn ++ [b] }
  | .parseAnswer a => { s with parseIn := s.parseIn ++ [a] }
  | .commitAnswer a => { s with commitIn := s.commitIn ++ [a] }
  | .rst => { s with rstIn := true }

end Sys2Proof.Machine
end

