-- ==== Sys2Proof/Machine/Checksum.lean ====
section
/-! DEFINITION. The checksum engine (spec/40_checksum.md): the CRC-16 with polynomial 0x8408, seed 0xFFFF,
least significant bit first, no final XOR, and its four operations. -/

namespace Sys2Proof.Machine

/-- One shift/XOR iteration (rule R102). -/
def crcBitValue (c : Half) : Half :=
  if c.getLsbD 0 then (c >>> 1) ^^^ 0x8408#16 else c >>> 1

/-- `n` iterations of rule R102. -/
def crcBits : Nat → Half → Half
  | 0, c => c
  | n + 1, c => crcBits n (crcBitValue c)

/-- `step(c, d)`: the byte enters the low 8 bits, then eight iterations (rule R103). -/
def crcStep (c : Half) (d : Byte) : Half := crcBits 8 (c ^^^ d.setWidth 16)

/-- The seed (rule R100). -/
def crcSeedValue : Half := 0xFFFF#16

/-- `crc16(d) = fold(step, 0xFFFF, d)` over the bytes of `d` in order (rule R104). -/
def crc16 (d : Bytes) : Half := d.foldl crcStep crcSeedValue

/-- CRC_SEED on the state: `CRC <- 0xFFFF` (rule R101). -/
def crcSeed (s : State) : State := { s with crc := crcSeedValue }

/-- CRC_BIT on the state (rule R102). -/
def crcBit (s : State) : State := { s with crc := crcBitValue s.crc }

/-- CRC_BYTE on the state (rule R103). -/
def crcByte (d : Byte) (s : State) : State := { s with crc := crcStep s.crc d }

/-- The loop of CRC_RANGE: absorb `n` bytes from offset `i` on, one MemRead each (rule R104). -/
def crcLoop : Nat → Nat → State → Attempt Unit
  | 0, _, s => .done () s
  | n + 1, i, s =>
    (memRead i 1 s).andThen fun v s => crcLoop n (i + 1) (crcByte (v.headD 0) s)

/-- CRC_RANGE on the state: seed, absorb `ACC[0, L)`, the result is CRC (rule R104). -/
def crcRange (L : Nat) (s : State) : Attempt Half :=
  (crcLoop L 0 (crcSeed s)).andThen fun _ s => .done s.crc s

/-- CRC_SEED, `CRCOP = 00` (rule R101). -/
def execCrcSeed (s : State) : Host.Outcome State Fault Refusal :=
  operate s (.next (crcSeed s))

/-- CRC_BIT, an internal step (rule R102). -/
def execCrcBit (s : State) : Host.Outcome State Fault Refusal :=
  operate s (.next (crcBit s))

/-- CRC_BYTE, `CRCOP = 01` (rule R103). -/
def execCrcByte (d : Byte) (s : State) : Host.Outcome State Fault Refusal :=
  operate s (.next (crcByte d s))

/-- CRC_RANGE, `CRCOP = 10` (rule R104). -/
def execCrcRange (L : Nat) (s : State) : Host.Outcome State Fault Refusal :=
  operate s (settle (crcRange L s))

end Sys2Proof.Machine
end

