-- ==== Sys2Proof/WellFormed.lean ====
section
/-! DEFINITION. Which operations are well formed under a configuration: the limits the rules put on an
operation's operands. An ill-formed operation still has a meaning (an access outside the buffer is the model
fault ACCESS_RANGE, rule R51); it is one that no rule of the block issues. -/

namespace Sys2Proof

/-- The prefix of the sentinel as one 32-bit value, `PFX32 = 0x73746F70` (rule R73). -/
def stopPfx32 : BitVec 32 := 0x73746F70#32

/-- The operand limits: a data frame's prefix is not the sentinel (rule R74), CRC_RANGE has `L <= C` (rule
R104), TRAILER_WRITE has `L + 2 <= C` (rule R126). Every other operation has no limit of its own. -/
def Instr.wellFormed (c : Config) : Instr → Bool
  | .frameData index => index != stopPfx32
  | .trailerWrite L _ => decide (L + 2 ≤ c.C)
  | .crcRange L => decide (L ≤ c.C)
  | .dispatchCmd _ => true
  | .dispatchCmdToolong _ => true
  | .dispatchSvData => true
  | .dispatchSvStop => true
  | .dispatchSvToolong _ => true
  | .dispatchSdData => true
  | .dispatchSdStop => true
  | .dispatchSdToolong _ => true
  | .dispatchReserved _ _ => true
  | .frameStop => true
  | .ingestDataV => true
  | .ingestStopV => true
  | .ingestDataD => true
  | .ingestStopD => true
  | .crcSeed => true
  | .crcByte _ => true
  | .crcBit => true
  | .reset => true

end Sys2Proof
end

