-- ==== Sys2Proof/Decode.lean ====
section
/-! DEFINITION. Encodings and the operation map (spec/30_encoding.md): what a selector selects, and the
selector of every operation. The block decodes no instruction words; what it decodes are its own selectors
(rules R76 to R79 and R89) and the prefix of a frame (rules R73 and R74). -/

namespace Sys2Proof

/-- The two operations without a selector, with their operands (opcode table, format INTERNAL). -/
inductive InternalStep where
  /-- TRAILER_WRITE (rule R126). -/
  | trailerWrite (L : Nat) (crc : Half)
  /-- CRC_BIT (rule R102). -/
  | crcBit
deriving DecidableEq, Repr

/-- What names an operation: a value of one of the five selectors, with the operand word that stands beside a
CRCOP, or the name of an internal step. The selectors are spaces of their own: the value 0 of each selects
another operation. -/
inductive Code where
  /-- `DSEL`, 4 bits (rule R76). -/
  | dsel (v : BitVec 4)
  /-- `PFX32`, 32 bits (rule R73). -/
  | pfx32 (v : BitVec 32)
  /-- `ISEL`, 2 bits (rule R78). -/
  | isel (v : BitVec 2)
  /-- `CRCOP`, 2 bits (rule R79), with the operand of CRC_BYTE or CRC_RANGE, 0 where there is none. -/
  | crcop (v : BitVec 2) (operand : Nat)
  /-- `CTRL`, 1 bit (rule R89). -/
  | ctrl (v : BitVec 1)
  /-- An internal step, which has no selector. -/
  | internal (step : InternalStep)
deriving DecidableEq, Repr

/-- Why a code selects no operation. -/
inductive DecodeError where
  /-- `CRCOP = 11`, "reserved, never issued by any rule" (rule R79, U12). -/
  | crcopReserved
  /-- `CTRL.RST = 0` "selects nothing" (rule R89). -/
  | ctrlSelectsNothing
  /-- An operand beside CRC_SEED, which has none (rule R101). -/
  | operandWithoutUse
  /-- The operand of CRC_BYTE is no byte (rule R103). -/
  | operandNotByte
deriving DecidableEq, Repr

/-- `DSEL = SESSION || TOOLONG || SENT` (rule R76). -/
def dselWord (session : BitVec 2) (tooLong sent : Bool) : BitVec 4 :=
  session ++ BitVec.ofBool tooLong ++ BitVec.ofBool sent

/-- The dispatch operation map of rule R77, total over the 16 values of `DSEL`. -/
def decodeDsel (v : BitVec 4) : Instr :=
  let session := v.extractLsb' 2 2
  let tooLong := v.getLsbD 1
  let sent := v.getLsbD 0
  if session = 0b00#2 then
    if tooLong then .dispatchCmdToolong sent else .dispatchCmd sent
  else if session = 0b01#2 then
    if tooLong then .dispatchSvToolong sent else if sent then .dispatchSvStop else .dispatchSvData
  else if session = 0b10#2 then
    if tooLong then .dispatchSdToolong sent else if sent then .dispatchSdStop else .dispatchSdData
  else .dispatchReserved tooLong sent

/-- The frame classes of rule R74: the sentinel, and every other prefix value. -/
def decodePfx32 (v : BitVec 32) : Instr :=
  if v = stopPfx32 then .frameStop else .frameData v

/-- The ingestion operations of rule R78: bit 1 the destination, bit 0 `SENT`; all four values are used. -/
def decodeIsel (v : BitVec 2) : Instr :=
  match v.getLsbD 1, v.getLsbD 0 with
  | false, false => .ingestDataV
  | false, true => .ingestStopV
  | true, false => .ingestDataD
  | true, true => .ingestStopD

/-- The checksum micro-operations of rule R79, with their operand. -/
def decodeCrcop (v : BitVec 2) (operand : Nat) : Except DecodeError Instr :=
  match v.getLsbD 1, v.getLsbD 0 with
  | false, false => if operand = 0 then .ok .crcSeed else .error .operandWithoutUse
  | false, true => if operand < 256 then .ok (.crcByte (BitVec.ofNat 8 operand)) else .error .operandNotByte
  | true, false => .ok (.crcRange operand)
  | true, true => .error .crcopReserved

/-- The operation a code selects; a code that selects none is rejected by name. -/
def decode : Code → Except DecodeError Instr
  | .dsel v => .ok (decodeDsel v)
  | .pfx32 v => .ok (decodePfx32 v)
  | .isel v => .ok (decodeIsel v)
  | .crcop v operand => decodeCrcop v operand
  | .ctrl v => if v = 1#1 then .ok .reset else .error .ctrlSelectsNothing
  | .internal (.trailerWrite L crc) => .ok (.trailerWrite L crc)
  | .internal .crcBit => .ok .crcBit

/-- The code of an operation, written from the same tables (rules R76 to R79, R73 and R89). -/
def encode : Instr → Code
  | .dispatchCmd sent => .dsel (dselWord 0b00#2 false sent)
  | .dispatchCmdToolong sent => .dsel (dselWord 0b00#2 true sent)
  | .dispatchSvData => .dsel (dselWord 0b01#2 false false)
  | .dispatchSvStop => .dsel (dselWord 0b01#2 false true)
  | .dispatchSvToolong sent => .dsel (dselWord 0b01#2 true sent)
  | .dispatchSdData => .dsel (dselWord 0b10#2 false false)
  | .dispatchSdStop => .dsel (dselWord 0b10#2 false true)
  | .dispatchSdToolong sent => .dsel (dselWord 0b10#2 true sent)
  | .dispatchReserved tooLong sent => .dsel (dselWord 0b11#2 tooLong sent)
  | .frameStop => .pfx32 stopPfx32
  | .frameData index => .pfx32 index
  | .ingestDataV => .isel 0b00#2
  | .ingestStopV => .isel 0b01#2
  | .ingestDataD => .isel 0b10#2
  | .ingestStopD => .isel 0b11#2
  | .trailerWrite L crc => .internal (.trailerWrite L crc)
  | .crcSeed => .crcop 0b00#2 0
  | .crcByte d => .crcop 0b01#2 d.toNat
  | .crcRange L => .crcop 0b10#2 L
  | .crcBit => .internal .crcBit
  | .reset => .ctrl 1#1

/-! The opcode table as data: its match and mask columns, against which `encode` is held. -/

/-- The formats of spec/opcode_table.json. -/
inductive Space where
  | dsel
  | pfx32
  | isel
  | crcop
  | ctrl
  | internal
deriving DecidableEq, Repr

/-- One row of spec/opcode_table.json; `pattern` is its match and its mask, absent for the INTERNAL rows. -/
structure TableRow where
  mnemonic : String
  space : Space
  pattern : Option (Nat × Nat)
deriving DecidableEq, Repr

/-- The rows of spec/opcode_table.json, in its order, with its match and mask columns. -/
def opcodeTable : List TableRow :=
  [⟨"DISPATCH_CMD", .dsel, some (0b0000, 0b1110)⟩,
   ⟨"DISPATCH_CMD_TOOLONG", .dsel, some (0b0010, 0b1110)⟩,
   ⟨"DISPATCH_SV_DATA", .dsel, some (0b0100, 0b1111)⟩,
   ⟨"DISPATCH_SV_STOP", .dsel, some (0b0101, 0b1111)⟩,
   ⟨"DISPATCH_SV_TOOLONG", .dsel, some (0b0110, 0b1110)⟩,
   ⟨"DISPATCH_SD_DATA", .dsel, some (0b1000, 0b1111)⟩,
   ⟨"DISPATCH_SD_STOP", .dsel, some (0b1001, 0b1111)⟩,
   ⟨"DISPATCH_SD_TOOLONG", .dsel, some (0b1010, 0b1110)⟩,
   ⟨"DISPATCH_RESERVED", .dsel, some (0b1100, 0b1100)⟩,
   ⟨"FRAME_STOP", .pfx32, some (0x73746F70, 0xFFFFFFFF)⟩,
   ⟨"FRAME_DATA", .pfx32, some (0x00000000, 0x00000000)⟩] ++
  [⟨"INGEST_DATA_V", .isel, some (0b00, 0b11)⟩,
   ⟨"INGEST_STOP_V", .isel, some (0b01, 0b11)⟩,
   ⟨"INGEST_DATA_D", .isel, some (0b10, 0b11)⟩,
   ⟨"INGEST_STOP_D", .isel, some (0b11, 0b11)⟩,
   ⟨"TRAILER_WRITE", .internal, none⟩,
   ⟨"CRC_SEED", .crcop, some (0b00, 0b11)⟩,
   ⟨"CRC_BYTE", .crcop, some (0b01, 0b11)⟩,
   ⟨"CRC_RANGE", .crcop, some (0b10, 0b11)⟩,
   ⟨"CRC_BIT", .internal, none⟩,
   ⟨"RESET", .ctrl, some (0b1, 0b1)⟩]

/-- The mnemonic of an operation, as spec/opcode_table.json spells it. -/
def Instr.mnemonic : Instr → String
  | .dispatchCmd _ => "DISPATCH_CMD"
  | .dispatchCmdToolong _ => "DISPATCH_CMD_TOOLONG"
  | .dispatchSvData => "DISPATCH_SV_DATA"
  | .dispatchSvStop => "DISPATCH_SV_STOP"
  | .dispatchSvToolong _ => "DISPATCH_SV_TOOLONG"
  | .dispatchSdData => "DISPATCH_SD_DATA"
  | .dispatchSdStop => "DISPATCH_SD_STOP"
  | .dispatchSdToolong _ => "DISPATCH_SD_TOOLONG"
  | .dispatchReserved _ _ => "DISPATCH_RESERVED"
  | .frameStop => "FRAME_STOP"
  | .frameData _ => "FRAME_DATA"
  | .ingestDataV => "INGEST_DATA_V"
  | .ingestStopV => "INGEST_STOP_V"
  | .ingestDataD => "INGEST_DATA_D"
  | .ingestStopD => "INGEST_STOP_D"
  | .trailerWrite _ _ => "TRAILER_WRITE"
  | .crcSeed => "CRC_SEED"
  | .crcByte _ => "CRC_BYTE"
  | .crcRange _ => "CRC_RANGE"
  | .crcBit => "CRC_BIT"
  | .reset => "RESET"

/-- The space a code belongs to. -/
def Code.space : Code → Space
  | .dsel _ => .dsel
  | .pfx32 _ => .pfx32
  | .isel _ => .isel
  | .crcop _ _ => .crcop
  | .ctrl _ => .ctrl
  | .internal _ => .internal

/-- The selector's bits as one number, bit 0 the least significant; an internal step has none. -/
def Code.bits : Code → Nat
  | .dsel v => v.toNat
  | .pfx32 v => v.toNat
  | .isel v => v.toNat
  | .crcop v _ => v.toNat
  | .ctrl v => v.toNat
  | .internal _ => 0

/-- A code matches a row: same space, and the bits under the mask are the match value. -/
def TableRow.accepts (r : TableRow) (c : Code) : Bool :=
  r.space == c.space &&
    match r.pattern with
    | some (value, mask) => c.bits &&& mask == value
    | none => true

/-! The prefix of a frame (rules R71 to R73). -/

/-- The sentinel `"stop"`: 0x73 0x74 0x6F 0x70 (rule R72). -/
def sentinel : Bytes := [0x73#8, 0x74#8, 0x6F#8, 0x70#8]

/-- `PFX32`, assembled from the first four bytes of a frame, byte 0 the most significant (rule R73). -/
def pfx32 (frame : Bytes) : BitVec 32 :=
  (frame.getD 0 0).setWidth 32 <<< 24 ||| (frame.getD 1 0).setWidth 32 <<< 16 |||
    (frame.getD 2 0).setWidth 32 <<< 8 ||| (frame.getD 3 0).setWidth 32

/-- The four bytes of a prefix whose `PFX32` is `v`: the inverse of rule R73. -/
def prefixBytes (v : BitVec 32) : Bytes :=
  [v.extractLsb' 24 8, v.extractLsb' 16 8, v.extractLsb' 8 8, v.extractLsb' 0 8]

/-- The operation selected by the bits `w` of an opcode-table row of `nbits` bits. The table's selectors are
spaces of their own and a number does not say which one it belongs to, so the width decides: 32 bits are a
`PFX32`; 8 bits (4 bits in whole bytes) or 4 bits are a `DSEL`; 2 bits are an `ISEL`; 1 bit is `CTRL`
(notes/assumptions/10.md). -/
def decodeTableWord (nbits w : Nat) : Option Instr :=
  if nbits = 32 ∧ w < 2 ^ 32 then (decode (.pfx32 (BitVec.ofNat 32 w))).toOption
  else if (nbits = 8 ∨ nbits = 4) ∧ w < 2 ^ 4 then (decode (.dsel (BitVec.ofNat 4 w))).toOption
  else if nbits = 2 ∧ w < 2 ^ 2 then (decode (.isel (BitVec.ofNat 2 w))).toOption
  else if nbits = 1 ∧ w < 2 then (decode (.ctrl (BitVec.ofNat 1 w))).toOption
  else none

end Sys2Proof
end

