-- ==== Sys2Proof/Machine/Operands.lean ====
section
/-! DEFINITION. The operands of the operations: the chunk in SCRATCH (spec/42_dispatcher.md rule R152), the
frame view (rule R120), the cursors and offsets (rule R122), and the text of replies (rules R81 and R82). -/

namespace Sys2Proof.Machine

/-! ### The chunk and the frame -/

/-- SCRATCH_LOAD: a chunk of at most F bytes overwrites the first bytes of SCRATCH, the rest stay as the last
epilogue left them; a longer chunk is not loaded (rule R152). -/
def scratchLoad (b : Bytes) (s : State) : State :=
  if b.length ≤ s.cfg.F then
    { s with scratch := b ++ s.scratch.drop b.length, scratchLen := BitVec.ofNat 16 b.length }
  else s

/-- The prologue of a dispatch operation: the chunk is accepted, AUDIO_PAUSE, SCRATCH_LOAD (rules R150 to
R152). -/
def prologue (b : Bytes) (s : State) : State :=
  scratchLoad b (emit .audioPause (emit (.chunkIn b) s))

/-- `PAYLOAD = SCRATCH[P, F)` (rule R120). -/
def payload (s : State) : Bytes := (s.scratch.drop s.cfg.P).take (payloadSize s.cfg)

/-- The command line `SCRATCH[0, SCRATCH_LEN)` (rules R75 and R155). -/
def commandLine (s : State) : Bytes := s.scratch.take s.scratchLen.toNat

/-! ### The cursors -/

/-- The cursor of a destination (rules R23 and R24). -/
def cursor (d : Dest) (s : State) : Half :=
  match d with
  | .volatile => s.curV
  | .durable => s.curD

/-- Write the cursor of a destination (rules R23 and R24). -/
def setCursor (d : Dest) (v : Half) (s : State) : State :=
  match d with
  | .volatile => { s with curV := v }
  | .durable => { s with curD := v }

/-- `off = cur * N`, a natural number without wrap-around (rules R122 and R10); for a sentinel it is the payload
length `L` (rules R125 and R128). -/
def frameOffset (c : Config) (cur : Half) : Nat := cur.toNat * payloadSize c

/-- `next = (cur + 1) * N`, the post-increment byte offset (rule R122). -/
def nextOffset (c : Config) (cur : Half) : Nat := (cur.toNat + 1) * payloadSize c

/-! ### Replies -/

/-- The numeric status codes (rule R82). -/
def statusCode : Status → BitVec 3
  | .ok => 0#3
  | .err => 1#3
  | .warn => 2#3
  | .rdy => 3#3
  | .fnsh => 4#3

/-- The status keywords in ASCII (rule R82). -/
def statusText : Status → Bytes
  | .ok => [0x4F#8, 0x4B#8]
  | .err => [0x45#8, 0x52#8, 0x52#8]
  | .warn => [0x57#8, 0x41#8, 0x52#8, 0x4E#8]
  | .rdy => [0x52#8, 0x44#8, 0x59#8]
  | .fnsh => [0x46#8, 0x4E#8, 0x53#8, 0x48#8]

/-- The wire form of a reply record: `REPLY_TAG || " " || STATUS_TEXT || (": " || detail, if present) ||
REPLY_EOL` (rule R81). -/
def replyLine (c : Config) (r : Reply) : Bytes :=
  c.replyTag ++ [0x20#8] ++ statusText r.status ++
    (match r.detail with
     | some d => [0x3A#8, 0x20#8] ++ d
     | none => []) ++ c.replyEol

/-- The last `fuel` decimal digits of `n`, most significant first, without leading zeros; `"0"` for zero. -/
def decDigits : Nat → Nat → Bytes
  | 0, _ => []
  | fuel + 1, n =>
    (if n < 10 then [] else decDigits fuel (n / 10)) ++ [BitVec.ofNat 8 (0x30 + n % 10)]

/-- `dec(n)`: the decimal rendering of a 16-bit value, 1 to 5 digits (rule R82). -/
def dec (n : Half) : Bytes := decDigits 5 n.toNat

/-- `"Transmission done. CRC: "` in ASCII (rule R82). -/
def fnshText : Bytes :=
  [0x54#8, 0x72#8, 0x61#8, 0x6E#8, 0x73#8, 0x6D#8, 0x69#8, 0x73#8, 0x73#8, 0x69#8, 0x6F#8, 0x6E#8] ++
  [0x20#8, 0x64#8, 0x6F#8, 0x6E#8, 0x65#8, 0x2E#8, 0x20#8, 0x43#8, 0x52#8, 0x43#8, 0x3A#8, 0x20#8]

/-- `"chunk too long"` in ASCII (rule R156). -/
def tooLongText : Bytes :=
  [0x63#8, 0x68#8, 0x75#8, 0x6E#8, 0x6B#8, 0x20#8, 0x74#8, 0x6F#8, 0x6F#8, 0x20#8, 0x6C#8, 0x6F#8, 0x6E#8, 0x67#8]

/-- `reply_of`: the reply of an ingestion result, absent where none is sent (rule R164). -/
def replyOf : IngestResult → Option Reply
  | .contin => some ⟨.ok, none⟩
  | .complete crc => some ⟨.fnsh, some (fnshText ++ dec crc)⟩
  | .overflow => none
  | .commitFailed _ => none

/-- The numeric result codes RES (rule R80). -/
def resCode : IngestResult → BitVec 2
  | .contin => 0#2
  | .complete _ => 1#2
  | .overflow => 2#2
  | .commitFailed _ => 3#2

/-- The numeric codes of the commit stage's response (rule R84). -/
def commitCode : CommitAnswer → BitVec 1
  | .ok => 0#1
  | .fail => 1#1

/-- Send the reply of an ingestion result, if it has one (rule R164). -/
def emitReplyOf (r : IngestResult) (s : State) : State :=
  match replyOf r with
  | some rep => emit (.replyOut rep) s
  | none => s

end Sys2Proof.Machine
end

