-- ==== Sys2Proof/Machine/Flags.lean ====
section
/-! DEFINITION. The three combinational conditions TOOLONG, SENT and OVF, computed and never stored (rule R29),
and the dispatch selector formed from them (rules R76 and R154). -/

namespace Sys2Proof.Machine

/-- `TOOLONG = (len > F)` (rule R153). -/
def tooLong (c : Config) (len : Nat) : Bool := decide (c.F < len)

/-- `SENT`: the scratch prefix equals the sentinel, byte by byte (rules R121 and R72). -/
def sent (s : State) : Bool :=
  s.scratch.getD 0 0 == 0x73#8 && s.scratch.getD 1 0 == 0x74#8 &&
    s.scratch.getD 2 0 == 0x6F#8 && s.scratch.getD 3 0 == 0x70#8

/-- `OVF = (next >= C)`: the post-increment byte offset reaches or exceeds the capacity (rule R123). -/
def ovf (c : Config) (cur : Half) : Bool := decide (c.C ≤ nextOffset c cur)

/-- The dispatch selector of a chunk: `DSEL = SESSION || TOOLONG || SENT`, with SENT computed after SCRATCH_LOAD
(rules R76 and R154). -/
def dselOf (b : Bytes) (s : State) : BitVec 4 :=
  dselWord s.session (tooLong s.cfg b.length) (sent (scratchLoad b s))

end Sys2Proof.Machine
end

