-- ==== Sys2Proof/Machine/Ingestion.lean ====
section
/-! DEFINITION. The frame parser and accumulation-buffer sequencer (spec/41_ingestion.md). The two destinations
differ in their cursor only, and in the COMMIT request of the durable one. -/

namespace Sys2Proof.Machine

/-- TRAILER_WRITE on the state: `MemWrite(L, 2, le16(crc))` (rule R126). -/
def trailerWrite (L : Nat) (crc : Half) (s : State) : Attempt Unit := memWrite L (le16 crc) s

/-- Append one data frame (rules R124 and R127): the overflow check comes before any write. DESIGN CHOICE
(notes/assumptions/24.md): CRC keeps its value, although rule R109 lets an implementation absorb the frame here and U2
leaves CRC open outside CRC_RANGE. -/
def ingestData (d : Dest) (s : State) : Attempt IngestResult :=
  if ovf s.cfg (cursor d s) then .done .overflow (setCursor d 0 s)
  else
    (memWrite (frameOffset s.cfg (cursor d s)) (payload s) s).andThen fun _ s =>
      .done .contin (setCursor d (cursor d s + 1) s)

/-- The first part of a sentinel, common to both destinations: checksum of `ACC[0, L)`, trailer at `L`, cursor
to 0; its value is the checksum (rules R125 and R128). -/
def closeTransfer (d : Dest) (s : State) : Attempt Half :=
  (crcRange (frameOffset s.cfg (cursor d s)) s).andThen fun crc s =>
    (trailerWrite (frameOffset s.cfg (cursor d s)) crc s).andThen fun _ s => .done crc (setCursor d 0 s)

/-- INGEST_STOP_V on the state (rule R125). -/
def ingestStopV (s : State) : Attempt IngestResult :=
  (closeTransfer .volatile s).andThen fun crc s => .done (.complete crc) s

/-- The COMMIT response: OK completes the transfer, FAIL does not (rules R128 and R84). -/
def commitAnswered (crc : Half) (a : CommitAnswer) (s : State) : Attempt IngestResult :=
  match a with
  | .ok => .done (.complete crc) (emit (.commitResponse .ok) s)
  | .fail => .done (.commitFailed crc) (emit (.commitResponse .fail) s)

/-- `call COMMIT(length, COMMIT_BASE)`: the request, then the commit stage's answer; without one the operation
waits (rules R12, R128 and R169). `before` is ACC as the last completed operation left it (rule R38). -/
def callCommit (crc : Half) (length : Nat) (before : Memory) (s : State) : Attempt IngestResult :=
  let s := emit (.commitRequest length s.cfg.commitBase) s
  match s.commitIn with
  | [] => .waiting { s with phase := .waitCommit crc length before }
  | a :: rest => commitAnswered crc a { s with commitIn := rest }

/-- INGEST_STOP_D on the state (rule R128). -/
def ingestStopD (s : State) : Attempt IngestResult :=
  let L := frameOffset s.cfg s.curD
  let before := s.acc
  (closeTransfer .durable s).andThen fun crc s => callCommit crc (commitLen s.cfg L) before s

/-- INGEST_DATA_V, `ISEL = 00` (rule R124). -/
def execIngestDataV (s : State) : Host.Outcome State Fault Refusal :=
  operate s (settleResult (ingestData .volatile s))

/-- INGEST_STOP_V, `ISEL = 01` (rule R125). -/
def execIngestStopV (s : State) : Host.Outcome State Fault Refusal :=
  operate s (settleResult (ingestStopV s))

/-- INGEST_DATA_D, `ISEL = 10` (rule R127). -/
def execIngestDataD (s : State) : Host.Outcome State Fault Refusal :=
  operate s (settleResult (ingestData .durable s))

/-- INGEST_STOP_D, `ISEL = 11` (rule R128). -/
def execIngestStopD (s : State) : Host.Outcome State Fault Refusal :=
  operate s (settleResult (ingestStopD s))

/-- TRAILER_WRITE, an internal step (rule R126). -/
def execTrailerWrite (L : Nat) (crc : Half) (s : State) : Host.Outcome State Fault Refusal :=
  operate s (settle (trailerWrite L crc s))

end Sys2Proof.Machine
end

