-- ==== Sys2Proof/Machine/Dispatcher.lean ====
section
/-! DEFINITION. The protocol dispatcher (spec/42_dispatcher.md): the nine dispatch operations, each with its
prologue and epilogue, the two frame classes, and the rest of an operation after an oracle's answer. -/

namespace Sys2Proof.Machine

/-- A dispatch operation: it accepts the oldest chunk offered on CHUNK_IN and runs prologue, its own rule and
epilogue as one (rules R9, R150 to R154 and R165). A busy block accepts no chunk (rule R150), and without a chunk
there is nothing to dispatch: the block stays as it is (notes/assumptions/16.md). The rule is given the chunk's
length. -/
def dispatchOp (rule : Nat → State → Attempt Unit) (s : State) : Host.Outcome State Fault Refusal :=
  operate s
    (match s.phase, s.chunkIn with
     | .between, b :: rest => finish (rule b.length (prologue b { s with chunkIn := rest }))
     | _, _ => .next s)

/-! ### DISPATCH_CMD -/

/-- The PARSE response: a transition code 3 is the model fault PARSER_CONTRACT; else the parser's reply goes out
unchanged and SESSION follows the transition (rules R155, R83 and R205). -/
def parseAnswered (a : ParseAnswer) (s : State) : Attempt Unit :=
  let s := emit (.parseResponse a) s
  if a.transition = 3#2 then .faulted (markFault .parserContract s)
  else
    let s := emit (.replyOut a.reply) s
    if a.transition = 1#2 then .done () { s with session := 0b01#2 }
    else if a.transition = 2#2 then .done () { s with session := 0b10#2 }
    else .done () s

/-- `call PARSE(line, len)`: the request, then the parser's answer; without one the operation waits (rules R12,
R155 and R168). -/
def callParse (s : State) : Attempt Unit :=
  let s := emit (.parseRequest (commandLine s) s.scratchLen.toNat) s
  match s.parseIn with
  | [] => .waiting { s with phase := .waitParse }
  | a :: rest => parseAnswered a { s with parseIn := rest }

/-- DISPATCH_CMD, `DSEL = 000x`; SENT is ignored (rules R155 and R77). -/
def execDispatchCmd (_sent : Bool) (s : State) : Host.Outcome State Fault Refusal :=
  dispatchOp (fun _ s => callParse s) s

/-! ### Over-length chunks -/

/-- Reject an over-length chunk in Idle (rule R156). -/
def rejectTooLong (len : Nat) (s : State) : Attempt Unit :=
  .done () (raise (.chunkTooLong 0b00#2 len 0) (emit (.replyOut ⟨.err, some tooLongText⟩) s))

/-- The session state of a transfer to a destination (rule R22). -/
def streaming : Dest → BitVec 2
  | .volatile => 0b01#2
  | .durable => 0b10#2

/-- An over-length chunk aborts the transfer: cursor to 0, CHUNK_TOO_LONG, no reply (rules R159 and R162). -/
def abortTooLong (d : Dest) (len : Nat) (s : State) : Attempt Unit :=
  .done () (raise (.chunkTooLong (streaming d) len (cursor d s).toNat) (setCursor d 0 s))

/-- DISPATCH_CMD_TOOLONG, `DSEL = 001x` (rule R156). -/
def execDispatchCmdToolong (_sent : Bool) (s : State) : Host.Outcome State Fault Refusal :=
  dispatchOp rejectTooLong s

/-- DISPATCH_SV_TOOLONG, `DSEL = 011x` (rule R159). -/
def execDispatchSvToolong (_sent : Bool) (s : State) : Host.Outcome State Fault Refusal :=
  dispatchOp (abortTooLong .volatile) s

/-- DISPATCH_SD_TOOLONG, `DSEL = 101x` (rule R162). -/
def execDispatchSdToolong (_sent : Bool) (s : State) : Host.Outcome State Fault Refusal :=
  dispatchOp (abortTooLong .durable) s

/-! ### Data frames -/

/-- A data frame of a transfer: OK when it is appended, TRANSFER_OVERFLOW with the frames accepted before it
otherwise (rules R157 and R160). -/
def dataFrame (d : Dest) (s : State) : Attempt Unit :=
  let k := (cursor d s).toNat
  (ingestData d s).andThen fun res s =>
    if res = .contin then .done () (emitReplyOf res s)
    else .done () (raise (.transferOverflow d k) s)

/-- DISPATCH_SV_DATA, `DSEL = 0100` (rule R157). -/
def execDispatchSvData (s : State) : Host.Outcome State Fault Refusal :=
  dispatchOp (fun _ s => dataFrame .volatile s) s

/-- DISPATCH_SD_DATA, `DSEL = 1000` (rule R160). -/
def execDispatchSdData (s : State) : Host.Outcome State Fault Refusal :=
  dispatchOp (fun _ s => dataFrame .durable s) s

/-! ### Sentinel frames -/

/-- A completed transfer: `SESSION <- Idle`, then the FNSH reply (rules R158 and R161). -/
def completed (res : IngestResult) (s : State) : State :=
  emitReplyOf res { s with session := 0b00#2 }

/-- The sentinel of a volatile transfer (rule R158). -/
def volatileStop (s : State) : Attempt Unit :=
  (ingestStopV s).andThen fun res s => .done () (completed res s)

/-- DISPATCH_SV_STOP, `DSEL = 0101` (rule R158). -/
def execDispatchSvStop (s : State) : Host.Outcome State Fault Refusal :=
  dispatchOp (fun _ s => volatileStop s) s

/-- What DISPATCH_SD_STOP does with the result of INGEST_STOP_D: a failed commit raises COMMIT_FAILURE with the
checksum and the length requested, and no reply is sent (rule R161). -/
def durableResult (length : Nat) (res : IngestResult) (s : State) : Attempt Unit :=
  match res with
  | .commitFailed crc => .done () (raise (.commitFailure crc length) s)
  | .complete crc => .done () (completed (.complete crc) s)
  | .contin => .done () (completed .contin s)
  | .overflow => .done () (completed .overflow s)

/-- The sentinel of a durable transfer (rule R161). -/
def durableStop (s : State) : Attempt Unit :=
  (ingestStopD s).andThen (durableResult (commitLen s.cfg (frameOffset s.cfg s.curD)))

/-- DISPATCH_SD_STOP, `DSEL = 1001` (rule R161). -/
def execDispatchSdStop (s : State) : Host.Outcome State Fault Refusal :=
  dispatchOp (fun _ s => durableStop s) s

/-! ### The reserved session state -/

/-- DISPATCH_RESERVED, `DSEL = 11xx`: the model fault RESERVED_STATE; no reply, no AUDIO_RESUME (rules R163 and
R205). -/
def execDispatchReserved (_tooLong _sent : Bool) (s : State) : Host.Outcome State Fault Refusal :=
  dispatchOp (fun _ s => .faulted (markFault .reservedState s)) s

/-! ### The frame classes -/

/-- Run the dispatch operation that SESSION, TOOLONG and SENT select (rule R77). -/
def route (session : BitVec 2) (long stop : Bool) (s : State) : Host.Outcome State Fault Refusal :=
  if session = 0b00#2 then
    if long then execDispatchCmdToolong stop s else execDispatchCmd stop s
  else if session = 0b01#2 then
    if long then execDispatchSvToolong stop s
    else if stop then execDispatchSvStop s else execDispatchSvData s
  else if session = 0b10#2 then
    if long then execDispatchSdToolong stop s
    else if stop then execDispatchSdStop s else execDispatchSdData s
  else execDispatchReserved long stop s

/-- A chunk of a given frame class: the class is DSEL[0], and the dispatch operation it selects together with
SESSION and TOOLONG runs (rules R74, R76 and R154; notes/assumptions/8.md). -/
def frameOfClass (stop : Bool) (s : State) : Host.Outcome State Fault Refusal :=
  match s.chunkIn with
  | [] => operate s (.next s)
  | b :: _ => route s.session (tooLong s.cfg b.length) stop s

/-- FRAME_STOP, `PFX32 = 0x73746F70`: SENT = 1 (rules R74 and R121). -/
def execFrameStop (s : State) : Host.Outcome State Fault Refusal :=
  frameOfClass true s

/-- FRAME_DATA, every other prefix: SENT = 0; the index is ignored (rules R74, R120 and R130). -/
def execFrameData (_index : BitVec 32) (s : State) : Host.Outcome State Fault Refusal :=
  frameOfClass false s

/-! ### The rest of an operation after its wait -/

/-- The parser answers the waiting DISPATCH_CMD, which runs to its end (rules R155 and R168). -/
def resumeParse (a : ParseAnswer) (s : State) : Host.Outcome State Fault Refusal :=
  finish (parseAnswered a { s with phase := .between })

/-- The commit stage answers the waiting DISPATCH_SD_STOP, which runs to its end (rules R161 and R169). -/
def resumeCommit (crc : Half) (length : Nat) (a : CommitAnswer) (s : State) :
    Host.Outcome State Fault Refusal :=
  finish ((commitAnswered crc a { s with phase := .between }).andThen (durableResult length))

end Sys2Proof.Machine
end

