-- ==== Sys2Proof/Machine/Control.lean ====
section
/-! DEFINITION. Reset (spec/70_reset_and_hazards.md rules R230 and R231), the waits for an oracle, and which
operation the block takes next. -/

namespace Sys2Proof.Machine

/-- The reset operation on the state: an operation that waits is abandoned with no further event but the
AUDIO_RESUME that closes its bracket; SESSION, cursors and scratch take their reset values; ACC and FAULT are
unchanged; CRC is left unspecified, a free value (rule R230, notes/assumptions/2.md). Taking RST consumes it. -/
def resetOp (s : State) : State :=
  let t := emit .rst { s with rstIn := false }
  let t := match s.phase with
    | .between => t
    | .waitParse => emit .audioResume t
    | .waitCommit _ _ _ => emit .audioResume t
  { t with
    session := 0b00#2
    curV := 0
    curD := 0
    scratch := zeros s.cfg.F
    scratchLen := 0
    crc := Config.freeCrc s.draws
    draws := s.draws + 1
    phase := .between }

/-- RESET, `CTRL.RST = 1` (rule R230). -/
def execReset (s : State) : Host.Outcome State Fault Refusal :=
  operate s (.next (resetOp s))

/-- What the block does at a wait: the answer lets the operation go on, RST abandons it, without either it holds;
where RST and an answer are both there, a free value decides (notes/assumptions/6.md). -/
def waitOn {α : Type} (answers : List α) (resume : α → State → Host.Outcome State Fault Refusal) (s : State) :
    Host.Outcome State Fault Refusal :=
  match answers, s.rstIn with
  | [], false => .next s
  | [], true => execReset s
  | a :: _, false => resume a s
  | a :: _, true =>
    if Config.rstBeforeAnswer s.draws then execReset { s with draws := s.draws + 1 }
    else resume a { s with draws := s.draws + 1 }

/-- A step of an operation that waits for the parser or for the commit stage (rules R168, R169 and R231). -/
def waitStep (s : State) : Host.Outcome State Fault Refusal :=
  match s.phase with
  | .between => .next s
  | .waitParse => waitOn s.parseIn (fun a s => resumeParse a { s with parseIn := s.parseIn.tail }) s
  | .waitCommit crc length _ =>
    waitOn s.commitIn (fun a s => resumeCommit crc length a { s with commitIn := s.commitIn.tail }) s

/-- The operation taken next between operations: RST before a waiting chunk (rule R208), else the one that the
oldest chunk's selector selects (rules R77 and R154), else none. -/
def nextOperation (s : State) : Option Instr :=
  if s.rstIn then some .reset
  else
    match s.chunkIn with
    | [] => none
    | b :: _ => some (decodeDsel (dselOf b s))

/-! ### Presenting one operation to the block -/

/-- A chunk with given TOOLONG and SENT conditions: a frame with the sentinel or with prefix 0, or one byte more
than a frame. -/
def chunkWith (c : Config) (long stop : Bool) : Bytes :=
  if long then zeros (c.F + 1) else if stop then sentinel ++ zeros (payloadSize c) else zeros c.F

/-- Present a chunk and a session state such that the selector formed is `v` (rules R76 and R154). For the values
`xx11`, which no run forms, SCRATCH is given the sentinel, since an over-length chunk is not loaded. -/
def presentDsel (v : BitVec 4) (s : State) : State :=
  let long := v.getLsbD 1
  let stop := v.getLsbD 0
  { s with
    session := v.extractLsb' 2 2
    chunkIn := [chunkWith s.cfg long stop]
    scratch := if long && stop then sentinel ++ zeros (payloadSize s.cfg) else s.scratch }

/-- Present a frame with a given prefix in a streaming session state (rule R71); Idle becomes
StreamingToVolatile, in which a chunk is a frame. -/
def presentFrame (v : BitVec 32) (s : State) : State :=
  { s with
    session := if s.session = 0b00#2 then 0b01#2 else s.session
    chunkIn := [prefixBytes v ++ zeros (payloadSize s.cfg)] }

/-- Present a frame in the session state of a destination, so that the dispatch operation selected runs the
ingestion operation `ISEL` (rules R78 and R134). -/
def presentIsel (v : BitVec 2) (s : State) : State :=
  presentDsel (dselWord (streaming (if v.getLsbD 1 then .durable else .volatile)) false (v.getLsbD 0)) s

end Sys2Proof.Machine
end

