-- ==== Sys2Proof/Machine/Dispatch.lean ====
section
/-! DEFINITION. The dispatch of every operation to its meaning: one arm per constructor of Instr. -/

namespace Sys2Proof.Machine

def exec (i : Instr) (s : State) : Host.Outcome State Fault Refusal :=
  match i with
  -- the dispatcher (spec/42_dispatcher.md)
  | .dispatchCmd sent => Sys2Proof.Machine.execDispatchCmd sent s
  | .dispatchCmdToolong sent => Sys2Proof.Machine.execDispatchCmdToolong sent s
  | .dispatchSvData => Sys2Proof.Machine.execDispatchSvData s
  | .dispatchSvStop => Sys2Proof.Machine.execDispatchSvStop s
  | .dispatchSvToolong sent => Sys2Proof.Machine.execDispatchSvToolong sent s
  | .dispatchSdData => Sys2Proof.Machine.execDispatchSdData s
  | .dispatchSdStop => Sys2Proof.Machine.execDispatchSdStop s
  | .dispatchSdToolong sent => Sys2Proof.Machine.execDispatchSdToolong sent s
  | .dispatchReserved tooLong sent => Sys2Proof.Machine.execDispatchReserved tooLong sent s
  -- the frame classes (spec/30_encoding.md)
  | .frameStop => Sys2Proof.Machine.execFrameStop s
  | .frameData index => Sys2Proof.Machine.execFrameData index s
  -- the sequencer (spec/41_ingestion.md)
  | .ingestDataV => Sys2Proof.Machine.execIngestDataV s
  | .ingestStopV => Sys2Proof.Machine.execIngestStopV s
  | .ingestDataD => Sys2Proof.Machine.execIngestDataD s
  | .ingestStopD => Sys2Proof.Machine.execIngestStopD s
  | .trailerWrite L crc => Sys2Proof.Machine.execTrailerWrite L crc s
  -- the checksum engine (spec/40_checksum.md)
  | .crcSeed => Sys2Proof.Machine.execCrcSeed s
  | .crcByte d => Sys2Proof.Machine.execCrcByte d s
  | .crcRange L => Sys2Proof.Machine.execCrcRange L s
  | .crcBit => Sys2Proof.Machine.execCrcBit s
  -- reset (spec/70_reset_and_hazards.md)
  | .reset => Sys2Proof.Machine.execReset s

end Sys2Proof.Machine
end

