-- ==== Sys2Proof/Machine/Step.lean ====
section
/-! DEFINITION. One step of the block: one whole operation, or an operation up to its wait for an oracle, or the
rest of it after the answer, or nothing where nothing is there to do (rules R9, R150, R167 to R169 and R245). -/

namespace Sys2Proof.Machine

/-- One step. Between operations the operation that is taken next runs; the block without an input stays as it
is, for as long as it takes. While an operation waits, `waitStep`. A configuration that is not admitted is refused
(rule R8), and while FAULT = 1 there is no step (rule R28). -/
def step (s : State) : Host.Outcome State Fault Refusal :=
  operate s
    (match s.phase with
     | .between =>
       match nextOperation s with
       | none => .next s
       | some i => exec i s
     | .waitParse => waitStep s
     | .waitCommit _ _ _ => waitStep s)

/-- `s` with the operation of the opcode-table bits `w` presented to the block, so that the next step runs it
(notes/assumptions/11.md): a `DSEL` by the session state and chunk that form it, a `PFX32` by a frame with that
prefix, an `ISEL` by the dispatch operation that runs it, `CTRL` by the RST input. Bits that select nothing leave
`s` as it is. -/
def State.withFetchWord (s : State) (nbits w : Nat) : State :=
  let s := { s with phase := .between, rstIn := false }
  if nbits = 32 ∧ w < 2 ^ 32 then presentFrame (BitVec.ofNat 32 w) s
  else if (nbits = 8 ∨ nbits = 4) ∧ w < 2 ^ 4 then presentDsel (BitVec.ofNat 4 w) s
  else if nbits = 2 ∧ w < 2 ^ 2 then presentIsel (BitVec.ofNat 2 w) s
  else if nbits = 1 ∧ w = 1 then { s with rstIn := true }
  else s

end Sys2Proof.Machine
end

