-- ==== Sys2Proof/Safety.lean ====
section
/-! DEFINITION. The terms in which claims are made: when an operation may run, the invariants that hold between
steps (spec/10_state.md rule R30), the audio bracket (rule R247), the states that runs reach, and the parser's
contract as a premise (rule R168). -/

namespace Sys2Proof.Machine

/-- The configuration is admitted (rule R8) and FAULT = 0 (rule R28): operations have a step. -/
structure Live (s : State) : Prop where
  cfg : admitted s.cfg = true
  fault : s.fault = none

/-- The block is live, not busy, and `b` is the oldest chunk offered, so that a dispatch operation accepts it
(rule R150). -/
structure Ready (s : State) (b : Bytes) (rest : List Bytes) : Prop where
  live : Live s
  phase : s.phase = .between
  chunk : s.chunkIn = b :: rest

/-- A frame as the operations see it: the chunk padded with zeros to `F` bytes (rules R71 and R152). -/
def padded (c : Config) (b : Bytes) : Bytes := b ++ zeros (c.F - b.length)

/-- The payload of a padded chunk, `N` bytes (rule R120). -/
def paddedPayload (c : Config) (b : Bytes) : Bytes := (padded c b).drop c.P

/-- `len(ACC[0, n)) = n` and every byte of it has a value: `bytes` is `ACC[0, n)`. -/
def AccPrefix (m : Memory) (bytes : Bytes) : Prop := memGetN m 0 bytes.length = some bytes

/-- The memory `m` with the bytes `v` stored from `off` on, said through the read of one byte: inside, the stored
bytes; outside, what was there. -/
def StoredAt (m : Memory) (off : Nat) (v : Bytes) (m' : Memory) : Prop :=
  ∀ a, memGet m' a = if off ≤ a ∧ a < off + v.length then v[a - off]? else memGet m a

/-- The state after a dispatch operation that accepted the chunk `b` and ended with its epilogue, apart from what
its own rule changes: scratch is clear and the trace has the events of the operation, between the acceptance with
AUDIO_PAUSE and the AUDIO_RESUME (rules R150, R151 and R165). -/
def concluded (s : State) (b : Bytes) (rest : List Bytes) (events : List Event) : State :=
  { s with
    chunkIn := rest
    scratch := zeros s.cfg.F
    scratchLen := 0
    trace := s.trace ++ [.chunkIn b, .audioPause] ++ events ++ [.audioResume] }

/-- What holds between steps. I1 to I5 are those of rule R30; the rest is what the operations need to find: SCRATCH
has `F` bytes, ACC is canonical and inside `[0, C)`, the bytes below the cursors have a value (rule R132), and an
operation that waits is a DISPATCH_CMD or a DISPATCH_SD_STOP. -/
structure BlockInv (s : State) : Prop where
  cfg : admitted s.cfg = true
  accWf : Memory.wf s.acc = true
  accBound : ∀ cell ∈ s.acc, cell.1 < s.cfg.C
  scratchSize : s.scratch.length = s.cfg.F
  scratchLenBound : s.scratchLen.toNat ≤ s.cfg.F
  sessionLegal : s.session ≠ 0b11#2
  idleV : s.session ≠ 0b01#2 → s.curV = 0
  idleD : s.session ≠ 0b10#2 → s.curD = 0
  boundV : frameOffset s.cfg s.curV < s.cfg.C
  boundD : frameOffset s.cfg s.curD < s.cfg.C
  writtenV : ∀ a, a < frameOffset s.cfg s.curV → (memGet s.acc a).isSome = true
  writtenD : ∀ a, a < frameOffset s.cfg s.curD → (memGet s.acc a).isSome = true
  scratchClear : s.fault = none → s.phase = .between → s.scratch = zeros s.cfg.F ∧ s.scratchLen = 0
  waitParse : s.phase = .waitParse → s.session = 0b00#2
  waitCommit : ∀ crc length before, s.phase = .waitCommit crc length before →
    s.session = 0b10#2 ∧ s.curD = 0 ∧ Memory.wf before = true ∧ ∀ cell ∈ before, cell.1 < s.cfg.C

/-- One event's effect on the audio bracket: whether a pause is open, or none once a pause came inside a pause or a
resume outside one (rule R247). -/
def audioStep (bracket : Option Bool) : Event → Option Bool
  | .audioPause => if bracket = some false then some true else none
  | .audioResume => if bracket = some true then some false else none
  | .chunkIn _ => bracket
  | .parseRequest _ _ => bracket
  | .parseResponse _ => bracket
  | .commitRequest _ _ => bracket
  | .commitResponse _ => bracket
  | .errEvt _ => bracket
  | .replyOut _ => bracket
  | .rst => bracket

/-- Whether a pause is open after a trace that began with none; none if pauses and resumes did not alternate. -/
def audioOpen (trace : List Event) : Option Bool := trace.foldl audioStep (some false)

/-- Pauses and resumes alternate, a pause first, and a pause is open exactly while an operation waits or after a model
fault: every AUDIO_PAUSE is followed by exactly one AUDIO_RESUME before the next (rule R247). -/
def AudioBracket (s : State) : Prop :=
  audioOpen s.trace = some (decide (s.phase ≠ .between ∨ s.fault ≠ none))

/-- The block right after power-up in a configuration (rules R22 to R31 and R230); `State.reset` is this for the
default one. -/
def powerUp (c : Config) : State := { State.reset with cfg := c, scratch := zeros c.F }

/-- The states that runs reach: from power-up in an admitted configuration, by steps, with any input at any time
between steps (rules R212 and R231). -/
inductive Reachable : State → Prop where
  | boot (c : Config) (h : admitted c = true) : Reachable (powerUp c)
  | input (i : Input) (s : State) (h : Reachable s) : Reachable (deliver i s)
  | step (s t : State) (h : Reachable s) (run : step s = .next t) : Reachable t

/-! ### The operations of a destination, for claims about both -/

/-- INGEST_DATA_V or INGEST_DATA_D. -/
def Dest.ingestData : Dest → Instr
  | .volatile => .ingestDataV
  | .durable => .ingestDataD

/-- DISPATCH_SV_DATA or DISPATCH_SD_DATA. -/
def Dest.dispatchData : Dest → Instr
  | .volatile => .dispatchSvData
  | .durable => .dispatchSdData

/-- DISPATCH_SV_TOOLONG or DISPATCH_SD_TOOLONG. -/
def Dest.dispatchToolong (sent : Bool) : Dest → Instr
  | .volatile => .dispatchSvToolong sent
  | .durable => .dispatchSdToolong sent

/-! ### Events -/

/-- A REPLY_OUT event. -/
def Event.isReply : Event → Bool
  | .replyOut _ => true
  | .chunkIn _ => false
  | .audioPause => false
  | .parseRequest _ _ => false
  | .parseResponse _ => false
  | .commitRequest _ _ => false
  | .commitResponse _ => false
  | .errEvt _ => false
  | .audioResume => false
  | .rst => false

/-- A COMMIT request. -/
def Event.isCommitRequest : Event → Bool
  | .commitRequest _ _ => true
  | .chunkIn _ => false
  | .audioPause => false
  | .parseRequest _ _ => false
  | .parseResponse _ => false
  | .commitResponse _ => false
  | .errEvt _ => false
  | .replyOut _ => false
  | .audioResume => false
  | .rst => false

/-- The events of a data frame that is appended (rules R151, R157 and R165). -/
def dataEvents (b : Bytes) : List Event := [.chunkIn b, .audioPause, .replyOut ⟨.ok, none⟩, .audioResume]

/-- The FNSH reply with the checksum (rules R82 and R164). -/
def fnshReply (crc : Half) : Reply := ⟨.fnsh, some (fnshText ++ dec crc)⟩

/-- A chunk that is a data frame: at most a frame long, and its padded prefix is not the sentinel (rules R72, R74
and R86). -/
def IsDataFrame (c : Config) (b : Bytes) : Prop :=
  b.length ≤ c.F ∧ (padded c b).take 4 ≠ sentinel

/-- A chunk that is a sentinel frame (rules R72, R74 and R86). -/
def IsStopFrame (c : Config) (b : Bytes) : Prop :=
  b.length ≤ c.F ∧ (padded c b).take 4 = sentinel

/-! ### The parser's contract, a premise for claims about its verbs (rules R87 and R168) -/

/-- The tokens of a command line: cut at spaces, empty tokens dropped (rule R87; notes/assumptions/19.md). The
second argument is the token read so far. -/
def tokensFrom : Bytes → Bytes → List Bytes
  | [], token => if token = [] then [] else [token]
  | b :: rest, token =>
    if b = 0x20#8 then
      if token = [] then tokensFrom rest [] else token :: tokensFrom rest []
    else tokensFrom rest (token ++ [b])

/-- The verb `send` in ASCII (rule R87). -/
def sendVerb : Bytes := [0x73#8, 0x65#8, 0x6E#8, 0x64#8]

/-- The verb `get` in ASCII (rule R87). -/
def getVerb : Bytes := [0x67#8, 0x65#8, 0x74#8]

/-- The verb `reset` in ASCII (rule R87). -/
def resetVerb : Bytes := [0x72#8, 0x65#8, 0x73#8, 0x65#8, 0x74#8]

/-- A correct parser's answer to a command line (rules R87 and R168): `send` is answered RDY with TO_DURABLE
exactly for the durable flag and TO_VOLATILE otherwise, absence of a flag included; every other line is answered
NONE, `get` with OK or ERR, `reset` with OK, anything else, `set` included, with ERR. -/
def parserContract (c : Config) (line : Bytes) (a : ParseAnswer) : Bool :=
  match tokensFrom line [] with
  | [] => a.transition == 0#2 && a.reply.status == .err
  | verb :: args =>
    if verb = sendVerb then
      a.reply.status == .rdy && a.transition == (if args.head? = some c.durableFlag then 2#2 else 1#2)
    else if verb = getVerb then
      a.transition == 0#2 && (a.reply.status == .ok || a.reply.status == .err)
    else if verb = resetVerb then a.transition == 0#2 && a.reply.status == .ok
    else a.transition == 0#2 && a.reply.status == .err

end Sys2Proof.Machine
end

