-- ==== Sys2Proof/Certificates/Slice0/Obligations.lean ====
section
/-! DEFINITION. The statements for the provers, one `def Obligations.<Name> : Prop` each; OBLIGATIONS.json lists
them with the rules they formalise. Where a statement gives the next state as `{ s with ... }`, every register,
every port and every build-time parameter that is not named there is unchanged: the frame is part of it.

What such a next state shows of the model's own choices, which are no rules of the spec: a trace has CHUNK_IN before
AUDIO_PAUSE, RST before AUDIO_RESUME, and the PARSE response of an operation that faults (log entry 13); ports are
queues that an operation takes from (log entries 5 and 22) and RST is consumed (log entry 21); a model fault is a
next state with the mark set (log entry 7); RES keeps the result of an ingestion operation that runs alone (log
entry 9); the part of an operation up to its wait is a step of its own (log entry 12); CRC keeps its value between the
computations of a checksum, data frames included (log entry 24). -/

open Sys2Proof Sys2Proof.Machine

/-! ### The checksum engine (spec/40_checksum.md) -/

/-- R101: CRC_SEED loads the seed and changes nothing else. -/
def Obligations.CrcSeedLoadsTheSeed : Prop :=
  ∀ s : State, Live s → exec .crcSeed s = .next { s with crc := 0xFFFF#16 }

/-- R102: CRC_BIT shifts right by one and XORs the polynomial in if the bit shifted out was 1. -/
def Obligations.CrcBitShiftsAndXors : Prop :=
  ∀ s : State, Live s →
    exec .crcBit s =
      .next { s with crc := if s.crc.getLsbD 0 = true then (s.crc >>> 1) ^^^ 0x8408#16 else s.crc >>> 1 }

/-- R103: CRC_BYTE XORs the byte into the low 8 bits and runs eight CRC_BIT. -/
def Obligations.CrcByteRunsEightBits : Prop :=
  ∀ (s : State) (d : Byte), Live s →
    exec (.crcByte d) s = .next { s with crc := crcBitValue^[8] (s.crc ^^^ d.setWidth 16) }

/-- R104: CRC_RANGE over a range whose bytes have a value leaves in CRC the fold of CRC_BYTE's step over them, in
increasing offset, from the seed; nothing else changes. -/
def Obligations.CrcRangeFoldsTheBytes : Prop :=
  ∀ (s : State) (v : Bytes), Live s → v.length ≤ s.cfg.C → AccPrefix s.acc v →
    exec (.crcRange v.length) s = .next { s with crc := v.foldl crcStep 0xFFFF#16 }

/-- R51, R205: CRC_RANGE that would read outside ACC, or a byte without a value, is the model fault ACCESS_RANGE:
FAULT is set and nothing but CRC has changed (log entries 7 and 17). -/
def Obligations.CrcRangeOutsideIsAccessRange : Prop :=
  ∀ (s : State) (L : Nat), Live s → (s.cfg.C < L ∨ ∃ a, a < L ∧ memGet s.acc a = none) →
    ∃ c, exec (.crcRange L) s = .next { s with crc := c, fault := some .accessRange }

/-- R105: the result of CRC_RANGE depends only on the bytes of the range, whatever the two states hold elsewhere. -/
def Obligations.CrcRangeDependsOnlyOnTheRange : Prop :=
  ∀ (s t : State) (L : Nat), Live s → Live t → L ≤ s.cfg.C → L ≤ t.cfg.C →
    (∀ a, a < L → (memGet s.acc a).isSome = true ∧ memGet s.acc a = memGet t.acc a) →
    ∃ s' t', exec (.crcRange L) s = .next s' ∧ exec (.crcRange L) t = .next t' ∧ s'.crc = t'.crc

/-- R106, R107: the checksum of no bytes is the seed, and of `a || b` it is the fold over `b` from that of `a`. -/
def Obligations.CrcOfEmptyAndConcatenation : Prop :=
  crc16 [] = 0xFFFF#16 ∧ ∀ a b : Bytes, crc16 (a ++ b) = b.foldl crcStep (crc16 a)

/-- R108: a byte string followed by its checksum in little-endian order checks to zero; in big-endian order it
does not in general. -/
def Obligations.CrcResidueIsZero : Prop :=
  (∀ d : Bytes, crc16 (d ++ le16 (crc16 d)) = 0) ∧
    crc16 ([0x00#8] ++ (le16 (crc16 [0x00#8])).reverse) = 0x4A4C#16

/-! ### The accumulation buffer (spec/20_memory.md) -/

/-- R51: MemWrite inside ACC stores the byte string and leaves every other byte alone, keeping the canonical form;
MemRead inside ACC gives the bytes, where all have a value, and changes nothing; outside ACC each is ACCESS_RANGE,
writing nothing (log entry 23), and so is a read of a byte without a value. -/
def Obligations.BufferAccessOrAccessRange : Prop :=
  ∀ (s : State) (off : Nat) (v : Bytes),
    (off + v.length ≤ s.cfg.C →
      (∃ m, memWrite off v s = .done () { s with acc := m } ∧ StoredAt s.acc off v m ∧
        (Memory.wf s.acc = true → Memory.wf m = true)) ∧
      ((∀ i, i < v.length → memGet s.acc (off + i) = v[i]?) → memRead off v.length s = .done v s)) ∧
    (s.cfg.C < off + v.length → memWrite off v s = .faulted { s with fault := some .accessRange }) ∧
    ∀ n, (s.cfg.C < off + n ∨ ∃ i, i < n ∧ memGet s.acc (off + i) = none) →
      memRead off n s = .faulted { s with fault := some .accessRange }

/-- R55, R126: TRAILER_WRITE stores the checksum little-endian at `L` and changes no other byte; outside ACC it is
ACCESS_RANGE and writes nothing (R51, log entries 7 and 23). -/
def Obligations.TrailerWriteIsLittleEndian : Prop :=
  ∀ (s : State) (L : Nat) (crc : Half), Live s →
    (L + 2 ≤ s.cfg.C →
      ∃ m, exec (.trailerWrite L crc) s = .next { s with acc := m } ∧
        memGet m L = some (crc.extractLsb' 0 8) ∧ memGet m (L + 1) = some (crc.extractLsb' 8 8) ∧
        ∀ a, a < L ∨ L + 2 ≤ a → memGet m a = memGet s.acc a) ∧
    (s.cfg.C < L + 2 → exec (.trailerWrite L crc) s = .next { s with fault := some .accessRange })

/-! ### The sequencer (spec/41_ingestion.md) -/

/-- R124, R127: a data frame that does not overflow is appended at `cur * N`, the cursor counts it, the result is
CONTINUE; one that would reach or exceed `C` resets the cursor, writes nothing, and the result is OVERFLOW (shown on RES, log entry 9). That
CRC keeps its value is log entry 24's. -/
def Obligations.IngestDataAppendsOrOverflows : Prop :=
  ∀ (s : State) (d : Dest), Live s → s.scratch.length = s.cfg.F →
    (nextOffset s.cfg (cursor d s) < s.cfg.C →
      ∃ m, exec d.ingestData s =
          .next { setCursor d (cursor d s + 1) s with acc := m, res := some .contin } ∧
        StoredAt s.acc (frameOffset s.cfg (cursor d s)) (s.scratch.drop s.cfg.P) m) ∧
    (s.cfg.C ≤ nextOffset s.cfg (cursor d s) →
      exec d.ingestData s = .next { setCursor d 0 s with res := some .overflow })

/-- R125: INGEST_STOP_V checks `ACC[0, L)`, stores the trailer at `L`, resets CUR_V; the result is COMPLETE
(shown on RES, log entry 9). -/
def Obligations.IngestStopVClosesTheTransfer : Prop :=
  ∀ (s : State) (v : Bytes), Live s → v.length = frameOffset s.cfg s.curV → v.length + 2 ≤ s.cfg.C →
    AccPrefix s.acc v →
    ∃ m, exec .ingestStopV s =
        .next { s with acc := m, crc := crc16 v, curV := 0, res := some (.complete (crc16 v)) } ∧
      StoredAt s.acc (frameOffset s.cfg s.curV) (le16 (crc16 v)) m

/-- R128, R129: INGEST_STOP_D does the same with CUR_D and then requests a commit of `commit_len(L)` at
COMMIT_BASE; the answer decides between COMPLETE and COMMIT_FAILED (shown on RES, log entry 9). -/
def Obligations.IngestStopDRequestsACommit : Prop :=
  ∀ (s : State) (v : Bytes) (a : CommitAnswer) (more : List CommitAnswer), Live s →
    v.length = frameOffset s.cfg s.curD → v.length + 2 ≤ s.cfg.C → AccPrefix s.acc v → s.commitIn = a :: more →
    ∃ m, exec .ingestStopD s =
        .next { s with
          acc := m
          crc := crc16 v
          curD := 0
          commitIn := more
          res := some (if a = .ok then .complete (crc16 v) else .commitFailed (crc16 v))
          trace := s.trace ++
            [.commitRequest (if s.cfg.commitLenIncludesTrailer = true then v.length + 2 else v.length)
                s.cfg.commitBase,
              .commitResponse a] } ∧
      StoredAt s.acc (frameOffset s.cfg s.curD) (le16 (crc16 v)) m

/-- R133: a transfer accepts exactly the data frames below `MAXF`, and after `MAXF` of them there is room for the
trailer. -/
def Obligations.TransferBounds : Prop :=
  ∀ c : Config, admitted c = true →
    maxFrames c * payloadSize c + 2 ≤ c.C ∧ ∀ cur : Half, ovf c cur = false ↔ cur.toNat < maxFrames c

/-! ### The dispatcher (spec/42_dispatcher.md) -/

/-- R157, R160, R202: a data frame in a transfer is appended and answered OK; the one that overflows returns the
block to Idle with ERR_EVT and no reply. -/
def Obligations.DataFrameIsAppendedOrOverflows : Prop :=
  ∀ (s : State) (b : Bytes) (rest : List Bytes) (d : Dest), Ready s b rest →
    s.scratch = zeros s.cfg.F → b.length ≤ s.cfg.F →
    (nextOffset s.cfg (cursor d s) < s.cfg.C →
      ∃ m, exec d.dispatchData s =
          .next { setCursor d (cursor d s + 1) (concluded s b rest [.replyOut ⟨.ok, none⟩]) with acc := m } ∧
        StoredAt s.acc (frameOffset s.cfg (cursor d s)) (paddedPayload s.cfg b) m) ∧
    (s.cfg.C ≤ nextOffset s.cfg (cursor d s) →
      exec d.dispatchData s =
        .next { setCursor d 0 (concluded s b rest [.errEvt (.transferOverflow d (cursor d s).toNat)]) with
          session := 0b00#2 })

/-- R158: the sentinel of a volatile transfer stores the trailer, returns the block to Idle and replies FNSH with
the decimal checksum. -/
def Obligations.VolatileStopReplies : Prop :=
  ∀ (s : State) (b : Bytes) (rest : List Bytes) (v : Bytes), Ready s b rest →
    v.length = frameOffset s.cfg s.curV → v.length + 2 ≤ s.cfg.C → AccPrefix s.acc v →
    ∃ m, exec .dispatchSvStop s =
        .next { concluded s b rest [.replyOut (fnshReply (crc16 v))] with
          acc := m, crc := crc16 v, curV := 0, session := 0b00#2 } ∧
      StoredAt s.acc (frameOffset s.cfg s.curV) (le16 (crc16 v)) m

/-- R161, R203: the sentinel of a durable transfer requests the commit; OK completes it with FNSH, FAIL is
COMMIT_FAILURE without a reply; both return the block to Idle, and the trailer stays. -/
def Obligations.DurableStopCommits : Prop :=
  ∀ (s : State) (b : Bytes) (rest : List Bytes) (v : Bytes) (a : CommitAnswer) (more : List CommitAnswer),
    Ready s b rest → v.length = frameOffset s.cfg s.curD → v.length + 2 ≤ s.cfg.C → AccPrefix s.acc v →
    s.commitIn = a :: more →
    ∃ m, exec .dispatchSdStop s =
        .next { concluded s b rest
            [.commitRequest (commitLen s.cfg v.length) s.cfg.commitBase, .commitResponse a,
              if a = .ok then .replyOut (fnshReply (crc16 v))
              else .errEvt (.commitFailure (crc16 v) (commitLen s.cfg v.length))] with
          acc := m, crc := crc16 v, curD := 0, session := 0b00#2, commitIn := more } ∧
      StoredAt s.acc (frameOffset s.cfg s.curD) (le16 (crc16 v)) m

/-- R169: without a commit answer the sentinel of a durable transfer waits, with the trailer written, CUR_D 0 and
the request made; nothing is cleared and the session state is unchanged. The wait as a state is log entry 12's. -/
def Obligations.DurableStopWaitsForTheCommit : Prop :=
  ∀ (s : State) (b : Bytes) (rest : List Bytes) (v : Bytes), Ready s b rest → s.scratch = zeros s.cfg.F →
    b.length ≤ s.cfg.F → v.length = frameOffset s.cfg s.curD → v.length + 2 ≤ s.cfg.C → AccPrefix s.acc v →
    s.commitIn = [] →
    ∃ m, exec .dispatchSdStop s =
        .next { s with
          chunkIn := rest
          scratch := padded s.cfg b
          scratchLen := BitVec.ofNat 16 b.length
          acc := m
          crc := crc16 v
          curD := 0
          phase := .waitCommit (crc16 v) (commitLen s.cfg v.length) s.acc
          trace := s.trace ++
            [.chunkIn b, .audioPause, .commitRequest (commitLen s.cfg v.length) s.cfg.commitBase] } ∧
      StoredAt s.acc (frameOffset s.cfg s.curD) (le16 (crc16 v)) m

/-- R155: a command line goes to the parser; its reply goes out unchanged and its transition sets SESSION; a
transition code 3 is the model fault PARSER_CONTRACT with no further event. -/
def Obligations.CommandFollowsTheParser : Prop :=
  ∀ (s : State) (b : Bytes) (rest : List Bytes) (a : ParseAnswer) (more : List ParseAnswer) (sent : Bool),
    Ready s b rest → s.scratch = zeros s.cfg.F → b.length ≤ s.cfg.F → s.parseIn = a :: more →
    (a.transition ≠ 3#2 →
      exec (.dispatchCmd sent) s =
        .next { concluded s b rest [.parseRequest b b.length, .parseResponse a, .replyOut a.reply] with
          parseIn := more
          session := if a.transition = 1#2 then 0b01#2 else if a.transition = 2#2 then 0b10#2 else s.session }) ∧
    (a.transition = 3#2 →
      exec (.dispatchCmd sent) s =
        .next { s with
          chunkIn := rest
          scratch := padded s.cfg b
          scratchLen := BitVec.ofNat 16 b.length
          parseIn := more
          fault := some .parserContract
          trace := s.trace ++ [.chunkIn b, .audioPause, .parseRequest b b.length, .parseResponse a] })

/-- R168: without a parser answer a command line waits, with the request made. The wait as a state is log entry
12's. -/
def Obligations.CommandWaitsForTheParser : Prop :=
  ∀ (s : State) (b : Bytes) (rest : List Bytes) (sent : Bool),
    Ready s b rest → s.scratch = zeros s.cfg.F → b.length ≤ s.cfg.F → s.parseIn = [] →
    exec (.dispatchCmd sent) s =
      .next { s with
        chunkIn := rest
        scratch := padded s.cfg b
        scratchLen := BitVec.ofNat 16 b.length
        phase := .waitParse
        trace := s.trace ++ [.chunkIn b, .audioPause, .parseRequest b b.length] }

/-- R156: an over-length chunk in Idle is answered ERR "chunk too long", its 14 bytes written out, and reported with
CHUNK_TOO_LONG. -/
def Obligations.OverLengthCommandIsRejected : Prop :=
  ∀ (s : State) (b : Bytes) (rest : List Bytes) (sent : Bool), Ready s b rest →
    exec (.dispatchCmdToolong sent) s =
      .next { concluded s b rest
          [.replyOut ⟨.err, some ([0x63#8, 0x68#8, 0x75#8, 0x6E#8, 0x6B#8] ++ [0x20#8] ++
              [0x74#8, 0x6F#8, 0x6F#8] ++ [0x20#8] ++ [0x6C#8, 0x6F#8, 0x6E#8, 0x67#8])⟩,
            .errEvt (.chunkTooLong 0b00#2 b.length 0)] with
        session := 0b00#2 }

/-- R159, R162: an over-length chunk in a transfer aborts it: cursor 0, Idle, CHUNK_TOO_LONG with the frames
accepted, no reply, ACC not written. -/
def Obligations.OverLengthFrameAbortsTheTransfer : Prop :=
  ∀ (s : State) (b : Bytes) (rest : List Bytes) (d : Dest) (sent : Bool), Ready s b rest →
    exec (d.dispatchToolong sent) s =
      .next { setCursor d 0 (concluded s b rest
          [.errEvt (.chunkTooLong (match d with | .volatile => 0b01#2 | .durable => 0b10#2) b.length
            (cursor d s).toNat)]) with
        session := 0b00#2 }

/-- R163: DISPATCH_RESERVED is the model fault RESERVED_STATE: FAULT is set; no reply, no AUDIO_RESUME. The next
state with the mark is log entry 7's. -/
def Obligations.ReservedSessionFaults : Prop :=
  ∀ (s : State) (b : Bytes) (rest : List Bytes) (tooLong sent : Bool), Ready s b rest →
    s.scratch = zeros s.cfg.F →
    exec (.dispatchReserved tooLong sent) s =
      .next { s with
        chunkIn := rest
        scratch := if b.length ≤ s.cfg.F then padded s.cfg b else zeros s.cfg.F
        scratchLen := if b.length ≤ s.cfg.F then BitVec.ofNat 16 b.length else s.scratchLen
        fault := some .reservedState
        trace := s.trace ++ [.chunkIn b, .audioPause] }

/-- R74, R121, R130 and the model's choice of log entry 8: a frame class is DSEL[0]; the dispatch operation that
runs is the one selected with it, whatever the index of a data frame. -/
def Obligations.FrameClassSelectsTheOperation : Prop :=
  ∀ (s : State) (b : Bytes) (rest : List Bytes) (index : BitVec 32), s.chunkIn = b :: rest →
    exec .frameStop s = exec (decodeDsel (dselWord s.session (decide (s.cfg.F < b.length)) true)) s ∧
    exec (.frameData index) s = exec (decodeDsel (dselWord s.session (decide (s.cfg.F < b.length)) false)) s

/-- R74, R157, R158, R160 and the model's choice of log entry 8: FRAME_DATA in a transfer appends the frame and
FRAME_STOP in a volatile transfer completes it. -/
def Obligations.FrameClassesCompleteInATransfer : Prop :=
  ∀ (s : State) (b : Bytes) (rest : List Bytes), Ready s b rest → b.length ≤ s.cfg.F →
    (∀ (d : Dest) (index : BitVec 32), s.session = streaming d → s.scratch = zeros s.cfg.F →
      nextOffset s.cfg (cursor d s) < s.cfg.C →
      ∃ m, exec (.frameData index) s =
          .next { setCursor d (cursor d s + 1) (concluded s b rest [.replyOut ⟨.ok, none⟩]) with acc := m } ∧
        StoredAt s.acc (frameOffset s.cfg (cursor d s)) (paddedPayload s.cfg b) m) ∧
    (∀ v : Bytes, s.session = 0b01#2 → v.length = frameOffset s.cfg s.curV → v.length + 2 ≤ s.cfg.C →
      AccPrefix s.acc v →
      ∃ m, exec .frameStop s =
          .next { concluded s b rest [.replyOut (fnshReply (crc16 v))] with
            acc := m, crc := crc16 v, curV := 0, session := 0b00#2 } ∧
        StoredAt s.acc (frameOffset s.cfg s.curV) (le16 (crc16 v)) m)

/-- R150: a busy block accepts no chunk, and without a chunk there is nothing to accept: every dispatch operation
leaves the state as it is (the model's choice of log entry 16). -/
def Obligations.BusyBlockAcceptsNoChunk : Prop :=
  ∀ (s : State) (v : BitVec 4), Live s → (s.phase ≠ .between ∨ s.chunkIn = []) →
    exec (decodeDsel v) s = .next s

/-! ### Reset (spec/70_reset_and_hazards.md) -/

/-- R230: RESET abandons an operation that waits, closing its audio bracket, and puts SESSION, the cursors and
scratch to their reset values; ACC and FAULT are unchanged; CRC is left with some value that the statement does not
name. The counter of free values and the consumed RST are the model's own (log entries 15 and 21). -/
def Obligations.ResetTakesTheResetValues : Prop :=
  ∀ s : State, Live s →
    ∃ c, exec .reset s =
      .next { s with
        session := 0b00#2
        curV := 0
        curD := 0
        crc := c
        scratch := zeros s.cfg.F
        scratchLen := 0
        phase := .between
        rstIn := false
        draws := s.draws + 1
        trace := s.trace ++ [.rst] ++ (if s.phase = .between then [] else [.audioResume]) }

/-- R31 and the launch values of the spec: the state right after power-up. -/
def Obligations.ResetStateValues : Prop :=
  State.reset.session = 0b00#2 ∧ State.reset.curV = 0 ∧ State.reset.curD = 0 ∧
    State.reset.scratch = zeros 64 ∧ State.reset.scratchLen = 0 ∧ State.reset.fault = none ∧
    (∀ a, memGet State.reset.acc a = none) ∧ State.reset.phase = .between ∧ State.reset.trace = []

/-! ### One step -/

/-- R77, R154: between operations, without RST, a step is the operation that the oldest chunk's selector decodes
to. `dselOf` forms the selector, and `Obligations.SelectorIsSessionTooLongSent` says of what. -/
def Obligations.StepRunsTheSelectedOperation : Prop :=
  ∀ (s : State) (b : Bytes) (rest : List Bytes) (i : Instr), Ready s b rest → s.rstIn = false →
    decode (.dsel (dselOf b s)) = .ok i → step s = exec i s

/-- R76, R121, R152, R153: the selector of a chunk is SESSION, TOOLONG, and SENT of the chunk padded with zeros;
an over-length chunk loads nothing, so SENT is 0. -/
def Obligations.SelectorIsSessionTooLongSent : Prop :=
  ∀ (s : State) (b : Bytes), s.scratch = zeros s.cfg.F →
    dselOf b s = s.session ++ BitVec.ofBool (decide (s.cfg.F < b.length)) ++
      BitVec.ofBool (decide (b.length ≤ s.cfg.F ∧ (padded s.cfg b).take 4 = sentinel))

/-- R208: between operations RST is taken before a waiting chunk. -/
def Obligations.StepTakesResetBeforeAChunk : Prop :=
  ∀ s : State, Live s → s.phase = .between → s.rstIn = true → step s = exec .reset s

/-- R167, R168, R169, R245: without an input that it can take the block stays as it is: between operations without
RST and chunk, and in a wait without RST and answer. -/
def Obligations.StepWaitsForAnInput : Prop :=
  ∀ s : State, Live s → s.rstIn = false →
    (s.phase = .between → s.chunkIn = [] → step s = .next s) ∧
    (s.phase = .waitParse → s.parseIn = [] → step s = .next s) ∧
    (∀ crc length before, s.phase = .waitCommit crc length before → s.commitIn = [] → step s = .next s)

/-- R168 and the model's choice of log entry 12: a command that waits and is answered later ends in the very state it
would have ended in with the answer there at once. -/
def Obligations.LateParserAnswerIsTheSame : Prop :=
  ∀ (s : State) (b : Bytes) (rest : List Bytes) (a : ParseAnswer) (sent : Bool), Ready s b rest →
    s.rstIn = false → s.parseIn = [] →
    ∃ w, exec (.dispatchCmd sent) s = .next w ∧ w.phase = .waitParse ∧
      step (deliver (.parseAnswer a) w) = exec (.dispatchCmd sent) (deliver (.parseAnswer a) s)

/-- R169: so it is with a durable sentinel and the commit stage's answer. -/
def Obligations.LateCommitAnswerIsTheSame : Prop :=
  ∀ (s : State) (b : Bytes) (rest : List Bytes) (v : Bytes) (a : CommitAnswer), Ready s b rest →
    s.rstIn = false → s.commitIn = [] → v.length = frameOffset s.cfg s.curD → v.length + 2 ≤ s.cfg.C →
    AccPrefix s.acc v →
    ∃ w, exec .dispatchSdStop s = .next w ∧ w.phase ≠ .between ∧
      step (deliver (.commitAnswer a) w) = exec .dispatchSdStop (deliver (.commitAnswer a) s)

/-- R231: RST during a wait abandons the operation: no reply, no error event, only the AUDIO_RESUME; ACC is kept. -/
def Obligations.ResetAbandonsAWait : Prop :=
  ∀ s : State, Live s → s.rstIn = true →
    (s.phase = .waitParse ∧ s.parseIn = [] ∨
      ∃ crc length before, s.phase = .waitCommit crc length before ∧ s.commitIn = []) →
    ∃ t, step s = .next t ∧ t.session = 0b00#2 ∧ t.curV = 0 ∧ t.curD = 0 ∧ t.scratch = zeros s.cfg.F ∧
      t.scratchLen = 0 ∧ t.acc = s.acc ∧ t.phase = .between ∧ t.fault = none ∧
      t.trace = s.trace ++ [.rst, .audioResume]

/-- Log entry 6, not a rule of the spec: where RST and the awaited answer are both there, the operation either is
abandoned or goes on, and which of the two is left open. -/
def Obligations.ResetWithAnAnswerIsEither : Prop :=
  ∀ s : State, Live s → s.rstIn = true →
    (∀ (a : ParseAnswer) (more : List ParseAnswer), s.phase = .waitParse → s.parseIn = a :: more →
      step s = exec .reset { s with draws := s.draws + 1 } ∨
        step s = resumeParse a { s with parseIn := more, draws := s.draws + 1 }) ∧
    (∀ (crc : Half) (length : Nat) (before : Memory) (a : CommitAnswer) (more : List CommitAnswer),
      s.phase = .waitCommit crc length before → s.commitIn = a :: more →
      step s = exec .reset { s with draws := s.draws + 1 } ∨
        step s = resumeCommit crc length a { s with commitIn := more, draws := s.draws + 1 })

/-- R28: while FAULT = 1 no operation and no step goes on; that it stops with a fault is log entry 7's. -/
def Obligations.FaultMarkStopsEverything : Prop :=
  ∀ (s : State) (r : FaultReason), admitted s.cfg = true → s.fault = some r →
    step s = .fault (.faultMark r) ∧ ∀ i : Instr, exec i s = .fault (.faultMark r)

/-- R8: a configuration that fails a condition is refused. -/
def Obligations.BadConfigurationIsRefused : Prop :=
  ∀ s : State,
    ¬(s.cfg.P = 4 ∧ s.cfg.P < s.cfg.F ∧ (s.cfg.C - 1) % (s.cfg.F - s.cfg.P) ≠ 0 ∧
        (s.cfg.C - 1) / (s.cfg.F - s.cfg.P) < 2 ^ 16 ∧ s.cfg.F < 2 ^ 16) →
    step s = .refused .badConfiguration ∧ ∀ i : Instr, exec i s = .refused .badConfiguration

/-! ### The machine as a whole -/

/-- The invariant and the audio bracket hold after power-up in every admitted configuration; CRC 0 and the empty ports
are the model's choices (log entries 1 and 5). -/
def Obligations.PowerUpMeetsTheInvariant : Prop :=
  BlockInv State.reset ∧ AudioBracket State.reset ∧
    ∀ c : Config, admitted c = true → BlockInv (powerUp c) ∧ AudioBracket (powerUp c)

/-- R30, with R132: every step keeps the invariant, from every state that meets it, and so does every input from
outside. -/
def Obligations.StepAndInputKeepTheInvariant : Prop :=
  (∀ s t : State, BlockInv s → step s = .next t → BlockInv t) ∧
    ∀ (s : State) (i : Input), BlockInv s → BlockInv (deliver i s)

/-- R30: what the invariant says between operations, in the spec's own words I1 to I6. -/
def Obligations.InvariantSaysI1ToI6 : Prop :=
  ∀ s : State, BlockInv s → s.fault = none → s.phase = .between →
    (s.session = 0b00#2 ∨ s.session = 0b01#2 ∨ s.session = 0b10#2) ∧
    (s.session ≠ 0b01#2 → s.curV = 0) ∧ (s.session ≠ 0b10#2 → s.curD = 0) ∧
    (s.curV.toNat * (s.cfg.F - s.cfg.P) < s.cfg.C ∧ s.curD.toNat * (s.cfg.F - s.cfg.P) < s.cfg.C) ∧
    (s.scratch = zeros s.cfg.F ∧ s.scratchLen = 0) ∧ (s.curV = 0 ∨ s.curD = 0)

/-- R51, R205: from a state that meets the invariant, with a parser within its contract, every step goes on and
sets no FAULT: no access leaves ACC and no byte without a value is read. -/
def Obligations.StepNeverFaults : Prop :=
  ∀ s : State, BlockInv s → s.fault = none → (∀ a ∈ s.parseIn, a.transition ≠ 3#2) →
    ∃ t, step s = .next t ∧ t.fault = none

/-- R205: in no run is FAULT set for a reserved session state or for an access; only a parser's answer with code 3
sets it. -/
def Obligations.ReachableFaultsAreTheParsers : Prop :=
  ∀ s : State, Reachable s → s.fault = none ∨
    (s.fault = some .parserContract ∧ ∃ a, Event.parseResponse a ∈ s.trace ∧ a.transition = 3#2)

/-- R166: a step leaves SESSION alone, or leaves Idle as a parser's answer says, or returns to Idle; no streaming
state goes to the other. -/
def Obligations.SessionTransitions : Prop :=
  ∀ s t : State, BlockInv s → step s = .next t →
    t.session = s.session ∨ t.session = 0b00#2 ∨
      (s.session = 0b00#2 ∧ ∃ a events, t.trace = s.trace ++ events ∧ Event.parseResponse a ∈ events ∧
        (a.transition = 1#2 ∧ t.session = 0b01#2 ∨ a.transition = 2#2 ∧ t.session = 0b10#2))

/-- R247: pauses and resumes alternate, so that every AUDIO_PAUSE is followed by exactly one AUDIO_RESUME before the
next; a pause is open exactly while an operation waits or after a model fault. Every step keeps this, and so does every
input from outside. -/
def Obligations.StepKeepsTheAudioBracket : Prop :=
  (∀ s t : State, AudioBracket s → step s = .next t → AudioBracket t) ∧
    ∀ (s : State) (i : Input), AudioBracket s → AudioBracket (deliver i s)

/-- R170: a step sends at most one reply, and it only adds to the trace. -/
def Obligations.AtMostOneReplyAStep : Prop :=
  ∀ s t : State, step s = .next t →
    ∃ events, t.trace = s.trace ++ events ∧ events.countP Event.isReply ≤ 1

/-- R129: a step makes at most one COMMIT request, and only in StreamingToDurable with a sentinel frame. -/
def Obligations.CommitOnlyAtADurableStop : Prop :=
  ∀ s t : State, BlockInv s → step s = .next t →
    ∃ events, t.trace = s.trace ++ events ∧ events.countP Event.isCommitRequest ≤ 1 ∧
      (events.countP Event.isCommitRequest = 1 →
        s.session = 0b10#2 ∧ ∃ b rest, s.chunkIn = b :: rest ∧ IsStopFrame s.cfg b)

/-- R7, R52, R60: a step never changes the build-time parameters; it changes ACC only in a transfer, within one
payload or a trailer at the transfer's cursor; and no byte that has a value loses it. -/
def Obligations.BufferChangesOnlyAtTheCursor : Prop :=
  ∀ s t : State, BlockInv s → step s = .next t →
    t.cfg = s.cfg ∧
    (∀ a, memGet t.acc a ≠ memGet s.acc a →
      ∃ d, s.session = streaming d ∧ frameOffset s.cfg (cursor d s) ≤ a ∧
        (a < nextOffset s.cfg (cursor d s) ∨ a < frameOffset s.cfg (cursor d s) + 2)) ∧
    ∀ a, (memGet s.acc a).isSome = true → (memGet t.acc a).isSome = true

/-- R38, R58: BUF_RD sees an operation only when it is completed: a step that ends in a wait leaves what it reads
alone, and between operations it reads ACC as it is. -/
def Obligations.BufRdSeesCompletedOperations : Prop :=
  ∀ s t : State, step s = .next t →
    (t.phase ≠ .between → visibleAcc t = visibleAcc s) ∧
    (t.phase = .between → ∀ off n v, off + n ≤ t.cfg.C →
      (t.bufRd off n = .ok v ↔ memGetN t.acc off n = some v))

/-- R61, R65: while its request is open the commit stage reads the trailer, and BUF_RD reads what ACC held before;
without an open request the commit stage has no access. -/
def Obligations.CommitStageSeesTheTrailer : Prop :=
  ∀ (s w : State) (b : Bytes) (rest : List Bytes) (v : Bytes), Ready s b rest →
    v.length = frameOffset s.cfg s.curD → v.length + 2 ≤ s.cfg.C → AccPrefix s.acc v → s.commitIn = [] →
    exec .dispatchSdStop s = .next w →
    (∀ i, i < v.length → w.commitRead i = v[i]?) ∧
    w.commitRead v.length = some ((crc16 v).extractLsb' 0 8) ∧
    w.commitRead (v.length + 1) = some ((crc16 v).extractLsb' 8 8) ∧
    (∀ off, s.cfg.C ≤ off → w.commitRead off = none) ∧
    (∀ off n, w.bufRd off n = s.bufRd off n) ∧
    ∀ off, s.commitRead off = none

/-! ### Encodings (spec/30_encoding.md) -/

/-- R77 to R79, R73, R89: decoding the code of a well-formed operation gives it back, every operand included; and
a code that selects an operation is the code of that operation, so no two codes select the same one. -/
def Obligations.DecodeAndEncodeAgree : Prop :=
  (∀ (c : Config) (i : Instr), i.wellFormed c = true → decode (encode i) = .ok i) ∧
    ∀ (code : Code) (i : Instr), decode code = .ok i → encode i = code

/-- R77: each of the 16 values of DSEL matches exactly one row of the opcode table, the row of the operation that
is selected. -/
def Obligations.DispatchMapIsTotalAndDisjoint : Prop :=
  ∀ v : BitVec 4,
    (opcodeTable.filter fun r => r.accepts (.dsel v)).map (·.mnemonic) = [(decodeDsel v).mnemonic]

/-- A few selectors written out from the spec's tables decode to the operations they stand for. -/
def Obligations.SelectorsOfTheSpec : Prop :=
  decode (.dsel 0b0001#4) = .ok (.dispatchCmd true) ∧ decode (.dsel 0b0101#4) = .ok .dispatchSvStop ∧
    decode (.dsel 0b1010#4) = .ok (.dispatchSdToolong false) ∧ decode (.pfx32 0x73746F70#32) = .ok .frameStop ∧
    decode (.pfx32 0x00000005#32) = .ok (.frameData 5#32) ∧ decode (.isel 0b10#2) = .ok .ingestDataD ∧
    decode (.crcop 0b01#2 0x31) = .ok (.crcByte 0x31#8) ∧ decode (.crcop 0b11#2 0) = .error .crcopReserved ∧
    decode (.ctrl 1#1) = .ok .reset

/-- R73, R74, R121, R86, R248: SENT holds exactly when the prefix assembled most significant byte first is
0x73746F70; a chunk of fewer than four bytes is never the sentinel. -/
def Obligations.SentIsTheStopPrefix : Prop :=
  (∀ s : State, sent s = true ↔ pfx32 s.scratch = 0x73746F70#32) ∧
    ∀ (s : State) (b : Bytes), s.scratch = zeros s.cfg.F → b.length < 4 → sent (scratchLoad b s) = false

/-- R82: `dec(n)` has 1 to 5 ASCII digits, no leading zero, and is the base-10 value of `n`. -/
def Obligations.DecimalRendering : Prop :=
  ∀ n : Half,
    1 ≤ (dec n).length ∧ (dec n).length ≤ 5 ∧ (∀ x ∈ dec n, 0x30 ≤ x.toNat ∧ x.toNat ≤ 0x39) ∧
    ((dec n).head? = some 0x30#8 → dec n = [0x30#8]) ∧
    (dec n).foldl (fun acc x => 10 * acc + (x.toNat - 0x30)) 0 = n.toNat

/-- R81, R82, R164: the reply lines of CONTINUE and COMPLETE on the wire, the 24 bytes of "Transmission done. CRC: "
written out, and the results that have none. -/
def Obligations.ReplyLinesOnTheWire : Prop :=
  ∀ (c : Config) (crc : Half),
    (replyOf .contin).map (replyLine c) = some (c.replyTag ++ [0x20#8, 0x4F#8, 0x4B#8] ++ c.replyEol) ∧
    (replyOf (.complete crc)).map (replyLine c) =
      some (c.replyTag ++ [0x20#8, 0x46#8, 0x4E#8, 0x53#8, 0x48#8, 0x3A#8, 0x20#8] ++
        ([0x54#8, 0x72#8, 0x61#8, 0x6E#8, 0x73#8, 0x6D#8, 0x69#8, 0x73#8, 0x73#8, 0x69#8, 0x6F#8, 0x6E#8] ++ [0x20#8] ++
          [0x64#8, 0x6F#8, 0x6E#8, 0x65#8, 0x2E#8] ++ [0x20#8] ++ [0x43#8, 0x52#8, 0x43#8, 0x3A#8] ++ [0x20#8]) ++
        dec crc ++ c.replyEol) ∧
    replyOf .overflow = none ∧ replyOf (.commitFailed crc) = none

/-- R80, R82, R84, R201: the numeric codes of results, statuses, commit responses and errors; no reserved code is
one of them. -/
def Obligations.NumericCodesOfTheSpec : Prop :=
  (∀ crc : Half, resCode .contin = 0#2 ∧ resCode (.complete crc) = 1#2 ∧ resCode .overflow = 2#2 ∧
    resCode (.commitFailed crc) = 3#2) ∧
  (statusCode .ok = 0#3 ∧ statusCode .err = 1#3 ∧ statusCode .warn = 2#3 ∧ statusCode .rdy = 3#3 ∧
    statusCode .fnsh = 4#3 ∧ ∀ st : Status, statusCode st ≤ 4#3) ∧
  (commitCode .ok = 0#1 ∧ commitCode .fail = 1#1) ∧
  ∀ e : ErrEvent,
    errCode e =
      match e with
      | .transferOverflow _ _ => 1#3
      | .commitFailure _ _ => 2#3
      | .chunkTooLong _ _ _ => 3#3

/-! ### The parser's contract as a premise, and whole transfers -/

/-- R168, with the contract as a premise: a `send` arms a durable transfer exactly when its flag is DURABLE_FLAG and
a volatile one otherwise, absence of a flag included; every other line leaves the block in Idle. -/
def Obligations.SendArmsATransfer : Prop :=
  ∀ (s : State) (b : Bytes) (rest : List Bytes) (a : ParseAnswer) (more : List ParseAnswer) (sent : Bool),
    Ready s b rest → s.scratch = zeros s.cfg.F → b.length ≤ s.cfg.F → s.session = 0b00#2 →
    s.parseIn = a :: more → parserContract s.cfg b a = true →
    ∃ t, exec (.dispatchCmd sent) s = .next t ∧ t.fault = none ∧ t.phase = .between ∧
      (∀ flag args, tokensFrom b [] = sendVerb :: flag :: args →
        t.session = if flag = s.cfg.durableFlag then 0b10#2 else 0b01#2) ∧
      (tokensFrom b [] = [sendVerb] → t.session = 0b01#2) ∧
      ((tokensFrom b []).head? ≠ some sendVerb → t.session = 0b00#2)

/-- R124, R125, R158 over a whole transfer: from a volatile transfer just armed, any number of data frames up to
MAXF and then a sentinel leave the payloads, in order, at the start of ACC, their checksum little-endian behind
them, one OK for each frame and then FNSH with that checksum; payload and trailer check to zero. -/
def Obligations.VolatileTransferDelivers : Prop :=
  ∀ (s : State) (frames : List Bytes) (stop : Bytes) (rest : List Bytes), Live s → s.phase = .between →
    s.rstIn = false → s.session = 0b01#2 → s.curV = 0 → s.scratch = zeros s.cfg.F →
    frames.length ≤ maxFrames s.cfg → (∀ f ∈ frames, IsDataFrame s.cfg f) → IsStopFrame s.cfg stop →
    s.chunkIn = frames ++ stop :: rest →
    ∃ t : State, core.run (frames.length + 1) s = .next t ∧ t.session = 0b00#2 ∧ t.curV = 0 ∧ t.curD = s.curD ∧
      t.chunkIn = rest ∧ t.fault = none ∧
      (let data := frames.flatMap (paddedPayload s.cfg)
       memGetN t.acc 0 (data.length + 2) = some (data ++ le16 (crc16 data)) ∧
        crc16 (data ++ le16 (crc16 data)) = 0 ∧
        (∀ a, data.length + 2 ≤ a → memGet t.acc a = memGet s.acc a) ∧
        t.trace = s.trace ++ frames.flatMap dataEvents ++
          [.chunkIn stop, .audioPause, .replyOut (fnshReply (crc16 data)), .audioResume])

/-- R123, R202 over a whole transfer: with one data frame more than MAXF, to either destination, the frames before
it are answered OK, it is reported with TRANSFER_OVERFLOW and not answered, and the block is in Idle with cursor 0
and ACC holding the MAXF payloads: no FNSH is sent. -/
def Obligations.OverflowedTransferEndsInIdle : Prop :=
  ∀ (s : State) (d : Dest) (frames : List Bytes) (last : Bytes) (rest : List Bytes), Live s →
    s.phase = .between → s.rstIn = false → s.session = streaming d → cursor d s = 0 →
    s.scratch = zeros s.cfg.F → frames.length = maxFrames s.cfg → (∀ f ∈ frames, IsDataFrame s.cfg f) →
    IsDataFrame s.cfg last → s.chunkIn = frames ++ last :: rest →
    ∃ t : State, core.run (frames.length + 1) s = .next t ∧ t.session = 0b00#2 ∧ cursor d t = 0 ∧ t.chunkIn = rest ∧
      t.fault = none ∧
      (let data := frames.flatMap (paddedPayload s.cfg)
       memGetN t.acc 0 data.length = some data ∧
        (∀ a, data.length ≤ a → memGet t.acc a = memGet s.acc a) ∧
        t.trace = s.trace ++ frames.flatMap dataEvents ++
          [.chunkIn last, .audioPause, .errEvt (.transferOverflow d (maxFrames s.cfg)), .audioResume])
end

