-- ==== Sys2Proof/Laws/State.lean ====
section
/-! SUPPORT. One lemma for each field and each update of State, so that no later proof unfolds an update. -/

namespace Sys2Proof.Machine

/-! ### emit -/

@[simp] theorem emit_cfg (e : Event) (s : State) :
    (emit e s).cfg = s.cfg := rfl

@[simp] theorem emit_session (e : Event) (s : State) :
    (emit e s).session = s.session := rfl

@[simp] theorem emit_curV (e : Event) (s : State) :
    (emit e s).curV = s.curV := rfl

@[simp] theorem emit_curD (e : Event) (s : State) :
    (emit e s).curD = s.curD := rfl

@[simp] theorem emit_crc (e : Event) (s : State) :
    (emit e s).crc = s.crc := rfl

@[simp] theorem emit_scratch (e : Event) (s : State) :
    (emit e s).scratch = s.scratch := rfl

@[simp] theorem emit_scratchLen (e : Event) (s : State) :
    (emit e s).scratchLen = s.scratchLen := rfl

@[simp] theorem emit_fault (e : Event) (s : State) :
    (emit e s).fault = s.fault := rfl

@[simp] theorem emit_acc (e : Event) (s : State) :
    (emit e s).acc = s.acc := rfl

@[simp] theorem emit_phase (e : Event) (s : State) :
    (emit e s).phase = s.phase := rfl

@[simp] theorem emit_res (e : Event) (s : State) :
    (emit e s).res = s.res := rfl

@[simp] theorem emit_chunkIn (e : Event) (s : State) :
    (emit e s).chunkIn = s.chunkIn := rfl

@[simp] theorem emit_rstIn (e : Event) (s : State) :
    (emit e s).rstIn = s.rstIn := rfl

@[simp] theorem emit_parseIn (e : Event) (s : State) :
    (emit e s).parseIn = s.parseIn := rfl

@[simp] theorem emit_commitIn (e : Event) (s : State) :
    (emit e s).commitIn = s.commitIn := rfl

@[simp] theorem emit_trace (e : Event) (s : State) :
    (emit e s).trace = s.trace ++ [e] := rfl

@[simp] theorem emit_draws (e : Event) (s : State) :
    (emit e s).draws = s.draws := rfl

/-! ### markFault -/

@[simp] theorem markFault_cfg (r : FaultReason) (s : State) :
    (markFault r s).cfg = s.cfg := rfl

@[simp] theorem markFault_session (r : FaultReason) (s : State) :
    (markFault r s).session = s.session := rfl

@[simp] theorem markFault_curV (r : FaultReason) (s : State) :
    (markFault r s).curV = s.curV := rfl

@[simp] theorem markFault_curD (r : FaultReason) (s : State) :
    (markFault r s).curD = s.curD := rfl

@[simp] theorem markFault_crc (r : FaultReason) (s : State) :
    (markFault r s).crc = s.crc := rfl

@[simp] theorem markFault_scratch (r : FaultReason) (s : State) :
    (markFault r s).scratch = s.scratch := rfl

@[simp] theorem markFault_scratchLen (r : FaultReason) (s : State) :
    (markFault r s).scratchLen = s.scratchLen := rfl

@[simp] theorem markFault_fault (r : FaultReason) (s : State) :
    (markFault r s).fault = some r := rfl

@[simp] theorem markFault_acc (r : FaultReason) (s : State) :
    (markFault r s).acc = s.acc := rfl

@[simp] theorem markFault_phase (r : FaultReason) (s : State) :
    (markFault r s).phase = s.phase := rfl

@[simp] theorem markFault_res (r : FaultReason) (s : State) :
    (markFault r s).res = s.res := rfl

@[simp] theorem markFault_chunkIn (r : FaultReason) (s : State) :
    (markFault r s).chunkIn = s.chunkIn := rfl

@[simp] theorem markFault_rstIn (r : FaultReason) (s : State) :
    (markFault r s).rstIn = s.rstIn := rfl

@[simp] theorem markFault_parseIn (r : FaultReason) (s : State) :
    (markFault r s).parseIn = s.parseIn := rfl

@[simp] theorem markFault_commitIn (r : FaultReason) (s : State) :
    (markFault r s).commitIn = s.commitIn := rfl

@[simp] theorem markFault_trace (r : FaultReason) (s : State) :
    (markFault r s).trace = s.trace := rfl

@[simp] theorem markFault_draws (r : FaultReason) (s : State) :
    (markFault r s).draws = s.draws := rfl

/-! ### raise -/

@[simp] theorem raise_cfg (e : ErrEvent) (s : State) :
    (raise e s).cfg = s.cfg := rfl

@[simp] theorem raise_session (e : ErrEvent) (s : State) :
    (raise e s).session = 0b00#2 := rfl

@[simp] theorem raise_curV (e : ErrEvent) (s : State) :
    (raise e s).curV = s.curV := rfl

@[simp] theorem raise_curD (e : ErrEvent) (s : State) :
    (raise e s).curD = s.curD := rfl

@[simp] theorem raise_crc (e : ErrEvent) (s : State) :
    (raise e s).crc = s.crc := rfl

@[simp] theorem raise_scratch (e : ErrEvent) (s : State) :
    (raise e s).scratch = s.scratch := rfl

@[simp] theorem raise_scratchLen (e : ErrEvent) (s : State) :
    (raise e s).scratchLen = s.scratchLen := rfl

@[simp] theorem raise_fault (e : ErrEvent) (s : State) :
    (raise e s).fault = s.fault := rfl

@[simp] theorem raise_acc (e : ErrEvent) (s : State) :
    (raise e s).acc = s.acc := rfl

@[simp] theorem raise_phase (e : ErrEvent) (s : State) :
    (raise e s).phase = s.phase := rfl

@[simp] theorem raise_res (e : ErrEvent) (s : State) :
    (raise e s).res = s.res := rfl

@[simp] theorem raise_chunkIn (e : ErrEvent) (s : State) :
    (raise e s).chunkIn = s.chunkIn := rfl

@[simp] theorem raise_rstIn (e : ErrEvent) (s : State) :
    (raise e s).rstIn = s.rstIn := rfl

@[simp] theorem raise_parseIn (e : ErrEvent) (s : State) :
    (raise e s).parseIn = s.parseIn := rfl

@[simp] theorem raise_commitIn (e : ErrEvent) (s : State) :
    (raise e s).commitIn = s.commitIn := rfl

@[simp] theorem raise_trace (e : ErrEvent) (s : State) :
    (raise e s).trace = s.trace ++ [.errEvt e] := rfl

@[simp] theorem raise_draws (e : ErrEvent) (s : State) :
    (raise e s).draws = s.draws := rfl

/-! ### setCursor -/

@[simp] theorem setCursor_cfg (d : Dest) (v : Half) (s : State) :
    (setCursor d v s).cfg = s.cfg := by cases d <;> rfl

@[simp] theorem setCursor_session (d : Dest) (v : Half) (s : State) :
    (setCursor d v s).session = s.session := by cases d <;> rfl

@[simp] theorem setCursor_crc (d : Dest) (v : Half) (s : State) :
    (setCursor d v s).crc = s.crc := by cases d <;> rfl

@[simp] theorem setCursor_scratch (d : Dest) (v : Half) (s : State) :
    (setCursor d v s).scratch = s.scratch := by cases d <;> rfl

@[simp] theorem setCursor_scratchLen (d : Dest) (v : Half) (s : State) :
    (setCursor d v s).scratchLen = s.scratchLen := by cases d <;> rfl

@[simp] theorem setCursor_fault (d : Dest) (v : Half) (s : State) :
    (setCursor d v s).fault = s.fault := by cases d <;> rfl

@[simp] theorem setCursor_acc (d : Dest) (v : Half) (s : State) :
    (setCursor d v s).acc = s.acc := by cases d <;> rfl

@[simp] theorem setCursor_phase (d : Dest) (v : Half) (s : State) :
    (setCursor d v s).phase = s.phase := by cases d <;> rfl

@[simp] theorem setCursor_res (d : Dest) (v : Half) (s : State) :
    (setCursor d v s).res = s.res := by cases d <;> rfl

@[simp] theorem setCursor_chunkIn (d : Dest) (v : Half) (s : State) :
    (setCursor d v s).chunkIn = s.chunkIn := by cases d <;> rfl

@[simp] theorem setCursor_rstIn (d : Dest) (v : Half) (s : State) :
    (setCursor d v s).rstIn = s.rstIn := by cases d <;> rfl

@[simp] theorem setCursor_parseIn (d : Dest) (v : Half) (s : State) :
    (setCursor d v s).parseIn = s.parseIn := by cases d <;> rfl

@[simp] theorem setCursor_commitIn (d : Dest) (v : Half) (s : State) :
    (setCursor d v s).commitIn = s.commitIn := by cases d <;> rfl

@[simp] theorem setCursor_trace (d : Dest) (v : Half) (s : State) :
    (setCursor d v s).trace = s.trace := by cases d <;> rfl

@[simp] theorem setCursor_draws (d : Dest) (v : Half) (s : State) :
    (setCursor d v s).draws = s.draws := by cases d <;> rfl

/-! ### scratchLoad -/

@[simp] theorem scratchLoad_cfg (b : Bytes) (s : State) :
    (scratchLoad b s).cfg = s.cfg := by unfold scratchLoad; split <;> rfl

@[simp] theorem scratchLoad_session (b : Bytes) (s : State) :
    (scratchLoad b s).session = s.session := by unfold scratchLoad; split <;> rfl

@[simp] theorem scratchLoad_curV (b : Bytes) (s : State) :
    (scratchLoad b s).curV = s.curV := by unfold scratchLoad; split <;> rfl

@[simp] theorem scratchLoad_curD (b : Bytes) (s : State) :
    (scratchLoad b s).curD = s.curD := by unfold scratchLoad; split <;> rfl

@[simp] theorem scratchLoad_crc (b : Bytes) (s : State) :
    (scratchLoad b s).crc = s.crc := by unfold scratchLoad; split <;> rfl

@[simp] theorem scratchLoad_fault (b : Bytes) (s : State) :
    (scratchLoad b s).fault = s.fault := by unfold scratchLoad; split <;> rfl

@[simp] theorem scratchLoad_acc (b : Bytes) (s : State) :
    (scratchLoad b s).acc = s.acc := by unfold scratchLoad; split <;> rfl

@[simp] theorem scratchLoad_phase (b : Bytes) (s : State) :
    (scratchLoad b s).phase = s.phase := by unfold scratchLoad; split <;> rfl

@[simp] theorem scratchLoad_res (b : Bytes) (s : State) :
    (scratchLoad b s).res = s.res := by unfold scratchLoad; split <;> rfl

@[simp] theorem scratchLoad_chunkIn (b : Bytes) (s : State) :
    (scratchLoad b s).chunkIn = s.chunkIn := by unfold scratchLoad; split <;> rfl

@[simp] theorem scratchLoad_rstIn (b : Bytes) (s : State) :
    (scratchLoad b s).rstIn = s.rstIn := by unfold scratchLoad; split <;> rfl

@[simp] theorem scratchLoad_parseIn (b : Bytes) (s : State) :
    (scratchLoad b s).parseIn = s.parseIn := by unfold scratchLoad; split <;> rfl

@[simp] theorem scratchLoad_commitIn (b : Bytes) (s : State) :
    (scratchLoad b s).commitIn = s.commitIn := by unfold scratchLoad; split <;> rfl

@[simp] theorem scratchLoad_trace (b : Bytes) (s : State) :
    (scratchLoad b s).trace = s.trace := by unfold scratchLoad; split <;> rfl

@[simp] theorem scratchLoad_draws (b : Bytes) (s : State) :
    (scratchLoad b s).draws = s.draws := by unfold scratchLoad; split <;> rfl

/-! ### prologue -/

@[simp] theorem prologue_cfg (b : Bytes) (s : State) :
    (prologue b s).cfg = s.cfg := by simp [prologue]

@[simp] theorem prologue_session (b : Bytes) (s : State) :
    (prologue b s).session = s.session := by simp [prologue]

@[simp] theorem prologue_curV (b : Bytes) (s : State) :
    (prologue b s).curV = s.curV := by simp [prologue]

@[simp] theorem prologue_curD (b : Bytes) (s : State) :
    (prologue b s).curD = s.curD := by simp [prologue]

@[simp] theorem prologue_crc (b : Bytes) (s : State) :
    (prologue b s).crc = s.crc := by simp [prologue]

@[simp] theorem prologue_fault (b : Bytes) (s : State) :
    (prologue b s).fault = s.fault := by simp [prologue]

@[simp] theorem prologue_acc (b : Bytes) (s : State) :
    (prologue b s).acc = s.acc := by simp [prologue]

@[simp] theorem prologue_phase (b : Bytes) (s : State) :
    (prologue b s).phase = s.phase := by simp [prologue]

@[simp] theorem prologue_res (b : Bytes) (s : State) :
    (prologue b s).res = s.res := by simp [prologue]

@[simp] theorem prologue_chunkIn (b : Bytes) (s : State) :
    (prologue b s).chunkIn = s.chunkIn := by simp [prologue]

@[simp] theorem prologue_rstIn (b : Bytes) (s : State) :
    (prologue b s).rstIn = s.rstIn := by simp [prologue]

@[simp] theorem prologue_parseIn (b : Bytes) (s : State) :
    (prologue b s).parseIn = s.parseIn := by simp [prologue]

@[simp] theorem prologue_commitIn (b : Bytes) (s : State) :
    (prologue b s).commitIn = s.commitIn := by simp [prologue]

@[simp] theorem prologue_trace (b : Bytes) (s : State) :
    (prologue b s).trace = s.trace ++ [.chunkIn b, .audioPause] := by simp [prologue]

@[simp] theorem prologue_draws (b : Bytes) (s : State) :
    (prologue b s).draws = s.draws := by simp [prologue]

/-! ### epilogue -/

@[simp] theorem epilogue_cfg (s : State) :
    (epilogue s).cfg = s.cfg := rfl

@[simp] theorem epilogue_session (s : State) :
    (epilogue s).session = s.session := rfl

@[simp] theorem epilogue_curV (s : State) :
    (epilogue s).curV = s.curV := rfl

@[simp] theorem epilogue_curD (s : State) :
    (epilogue s).curD = s.curD := rfl

@[simp] theorem epilogue_crc (s : State) :
    (epilogue s).crc = s.crc := rfl

@[simp] theorem epilogue_scratch (s : State) :
    (epilogue s).scratch = zeros s.cfg.F := rfl

@[simp] theorem epilogue_scratchLen (s : State) :
    (epilogue s).scratchLen = 0 := rfl

@[simp] theorem epilogue_fault (s : State) :
    (epilogue s).fault = s.fault := rfl

@[simp] theorem epilogue_acc (s : State) :
    (epilogue s).acc = s.acc := rfl

@[simp] theorem epilogue_phase (s : State) :
    (epilogue s).phase = s.phase := rfl

@[simp] theorem epilogue_res (s : State) :
    (epilogue s).res = s.res := rfl

@[simp] theorem epilogue_chunkIn (s : State) :
    (epilogue s).chunkIn = s.chunkIn := rfl

@[simp] theorem epilogue_rstIn (s : State) :
    (epilogue s).rstIn = s.rstIn := rfl

@[simp] theorem epilogue_parseIn (s : State) :
    (epilogue s).parseIn = s.parseIn := rfl

@[simp] theorem epilogue_commitIn (s : State) :
    (epilogue s).commitIn = s.commitIn := rfl

@[simp] theorem epilogue_trace (s : State) :
    (epilogue s).trace = s.trace ++ [.audioResume] := rfl

@[simp] theorem epilogue_draws (s : State) :
    (epilogue s).draws = s.draws := rfl

/-! ### the checksum register -/

@[simp] theorem crcSeed_cfg (s : State) :
    (crcSeed s).cfg = s.cfg := rfl

@[simp] theorem crcSeed_session (s : State) :
    (crcSeed s).session = s.session := rfl

@[simp] theorem crcSeed_curV (s : State) :
    (crcSeed s).curV = s.curV := rfl

@[simp] theorem crcSeed_curD (s : State) :
    (crcSeed s).curD = s.curD := rfl

@[simp] theorem crcSeed_crc (s : State) :
    (crcSeed s).crc = crcSeedValue := rfl

@[simp] theorem crcSeed_scratch (s : State) :
    (crcSeed s).scratch = s.scratch := rfl

@[simp] theorem crcSeed_scratchLen (s : State) :
    (crcSeed s).scratchLen = s.scratchLen := rfl

@[simp] theorem crcSeed_fault (s : State) :
    (crcSeed s).fault = s.fault := rfl

@[simp] theorem crcSeed_acc (s : State) :
    (crcSeed s).acc = s.acc := rfl

@[simp] theorem crcSeed_phase (s : State) :
    (crcSeed s).phase = s.phase := rfl

@[simp] theorem crcSeed_res (s : State) :
    (crcSeed s).res = s.res := rfl

@[simp] theorem crcSeed_chunkIn (s : State) :
    (crcSeed s).chunkIn = s.chunkIn := rfl

@[simp] theorem crcSeed_rstIn (s : State) :
    (crcSeed s).rstIn = s.rstIn := rfl

@[simp] theorem crcSeed_parseIn (s : State) :
    (crcSeed s).parseIn = s.parseIn := rfl

@[simp] theorem crcSeed_commitIn (s : State) :
    (crcSeed s).commitIn = s.commitIn := rfl

@[simp] theorem crcSeed_trace (s : State) :
    (crcSeed s).trace = s.trace := rfl

@[simp] theorem crcSeed_draws (s : State) :
    (crcSeed s).draws = s.draws := rfl

/-! ### CRC_BIT -/

@[simp] theorem crcBit_cfg (s : State) :
    (crcBit s).cfg = s.cfg := rfl

@[simp] theorem crcBit_session (s : State) :
    (crcBit s).session = s.session := rfl

@[simp] theorem crcBit_curV (s : State) :
    (crcBit s).curV = s.curV := rfl

@[simp] theorem crcBit_curD (s : State) :
    (crcBit s).curD = s.curD := rfl

@[simp] theorem crcBit_crc (s : State) :
    (crcBit s).crc = crcBitValue s.crc := rfl

@[simp] theorem crcBit_scratch (s : State) :
    (crcBit s).scratch = s.scratch := rfl

@[simp] theorem crcBit_scratchLen (s : State) :
    (crcBit s).scratchLen = s.scratchLen := rfl

@[simp] theorem crcBit_fault (s : State) :
    (crcBit s).fault = s.fault := rfl

@[simp] theorem crcBit_acc (s : State) :
    (crcBit s).acc = s.acc := rfl

@[simp] theorem crcBit_phase (s : State) :
    (crcBit s).phase = s.phase := rfl

@[simp] theorem crcBit_res (s : State) :
    (crcBit s).res = s.res := rfl

@[simp] theorem crcBit_chunkIn (s : State) :
    (crcBit s).chunkIn = s.chunkIn := rfl

@[simp] theorem crcBit_rstIn (s : State) :
    (crcBit s).rstIn = s.rstIn := rfl

@[simp] theorem crcBit_parseIn (s : State) :
    (crcBit s).parseIn = s.parseIn := rfl

@[simp] theorem crcBit_commitIn (s : State) :
    (crcBit s).commitIn = s.commitIn := rfl

@[simp] theorem crcBit_trace (s : State) :
    (crcBit s).trace = s.trace := rfl

@[simp] theorem crcBit_draws (s : State) :
    (crcBit s).draws = s.draws := rfl

/-! ### CRC_BYTE -/

@[simp] theorem crcByte_cfg (d : Byte) (s : State) :
    (crcByte d s).cfg = s.cfg := rfl

@[simp] theorem crcByte_session (d : Byte) (s : State) :
    (crcByte d s).session = s.session := rfl

@[simp] theorem crcByte_curV (d : Byte) (s : State) :
    (crcByte d s).curV = s.curV := rfl

@[simp] theorem crcByte_curD (d : Byte) (s : State) :
    (crcByte d s).curD = s.curD := rfl

@[simp] theorem crcByte_crc (d : Byte) (s : State) :
    (crcByte d s).crc = crcStep s.crc d := rfl

@[simp] theorem crcByte_scratch (d : Byte) (s : State) :
    (crcByte d s).scratch = s.scratch := rfl

@[simp] theorem crcByte_scratchLen (d : Byte) (s : State) :
    (crcByte d s).scratchLen = s.scratchLen := rfl

@[simp] theorem crcByte_fault (d : Byte) (s : State) :
    (crcByte d s).fault = s.fault := rfl

@[simp] theorem crcByte_acc (d : Byte) (s : State) :
    (crcByte d s).acc = s.acc := rfl

@[simp] theorem crcByte_phase (d : Byte) (s : State) :
    (crcByte d s).phase = s.phase := rfl

@[simp] theorem crcByte_res (d : Byte) (s : State) :
    (crcByte d s).res = s.res := rfl

@[simp] theorem crcByte_chunkIn (d : Byte) (s : State) :
    (crcByte d s).chunkIn = s.chunkIn := rfl

@[simp] theorem crcByte_rstIn (d : Byte) (s : State) :
    (crcByte d s).rstIn = s.rstIn := rfl

@[simp] theorem crcByte_parseIn (d : Byte) (s : State) :
    (crcByte d s).parseIn = s.parseIn := rfl

@[simp] theorem crcByte_commitIn (d : Byte) (s : State) :
    (crcByte d s).commitIn = s.commitIn := rfl

@[simp] theorem crcByte_trace (d : Byte) (s : State) :
    (crcByte d s).trace = s.trace := rfl

@[simp] theorem crcByte_draws (d : Byte) (s : State) :
    (crcByte d s).draws = s.draws := rfl

/-! ### The cursors -/

@[simp] theorem setCursor_volatile (v : Half) (s : State) :
    setCursor .volatile v s = { s with curV := v } := rfl

@[simp] theorem setCursor_durable (v : Half) (s : State) :
    setCursor .durable v s = { s with curD := v } := rfl

@[simp] theorem cursor_volatile (s : State) : cursor .volatile s = s.curV := rfl

@[simp] theorem cursor_durable (s : State) : cursor .durable s = s.curD := rfl

@[simp] theorem cursor_setCursor (d : Dest) (v : Half) (s : State) :
    cursor d (setCursor d v s) = v := by cases d <;> rfl

/-! ### SCRATCH after a load -/

theorem scratchLoad_scratch (b : Bytes) (s : State) (h : b.length ≤ s.cfg.F) :
    (scratchLoad b s).scratch = b ++ s.scratch.drop b.length := by
  simp [scratchLoad, h]

theorem scratchLoad_scratchLen (b : Bytes) (s : State) (h : b.length ≤ s.cfg.F) :
    (scratchLoad b s).scratchLen = BitVec.ofNat 16 b.length := by
  simp [scratchLoad, h]

theorem scratchLoad_long (b : Bytes) (s : State) (h : s.cfg.F < b.length) : scratchLoad b s = s := by
  simp [scratchLoad, Nat.not_le.mpr h]

theorem prologue_scratch (b : Bytes) (s : State) (h : b.length ≤ s.cfg.F) :
    (prologue b s).scratch = b ++ s.scratch.drop b.length := by
  simp [prologue, scratchLoad, h]

theorem prologue_scratchLen (b : Bytes) (s : State) (h : b.length ≤ s.cfg.F) :
    (prologue b s).scratchLen = BitVec.ofNat 16 b.length := by
  simp [prologue, scratchLoad, h]

theorem prologue_scratch_length (b : Bytes) (s : State) (h : s.scratch.length = s.cfg.F) :
    (prologue b s).scratch.length = s.cfg.F := by
  unfold prologue scratchLoad
  split
  · rename_i hb
    simp only [emit_cfg] at hb
    simp [h]
    omega
  · simp [h]

/-! ### Outcomes -/

@[simp] theorem andThen_done {α β : Type} (a : α) (s : State) (f : α → State → Attempt β) :
    (Attempt.done a s).andThen f = f a s := rfl

@[simp] theorem andThen_waiting {α β : Type} (s : State) (f : α → State → Attempt β) :
    (Attempt.waiting s : Attempt α).andThen f = .waiting s := rfl

@[simp] theorem andThen_faulted {α β : Type} (s : State) (f : α → State → Attempt β) :
    (Attempt.faulted s : Attempt α).andThen f = .faulted s := rfl

@[simp] theorem finish_done (u : Unit) (s : State) : finish (.done u s) = .next (epilogue s) := rfl

@[simp] theorem finish_waiting (s : State) : finish (.waiting s) = .next s := rfl

@[simp] theorem finish_faulted (s : State) : finish (.faulted s) = .next s := rfl

@[simp] theorem settle_done {α : Type} (a : α) (s : State) : settle (.done a s) = .next s := rfl

@[simp] theorem settle_faulted {α : Type} (s : State) : settle (.faulted s : Attempt α) = .next s := rfl

@[simp] theorem settleResult_done (r : IngestResult) (s : State) :
    settleResult (.done r s) = .next { s with res := some r } := rfl

@[simp] theorem settleResult_waiting (s : State) : settleResult (.waiting s) = .next s := rfl

@[simp] theorem settleResult_faulted (s : State) : settleResult (.faulted s) = .next s := rfl

@[simp] theorem operate_live {s : State} (h : Live s) (r : Host.Outcome State Fault Refusal) :
    operate s r = r := by
  simp [operate, h.cfg, h.fault]

theorem operate_next {s t : State} {r : Host.Outcome State Fault Refusal} (h : operate s r = .next t) :
    Live s ∧ r = .next t := by
  unfold operate at h
  split at h
  · split at h
    · exact ⟨⟨‹_›, ‹_›⟩, h⟩
    · cases h
  · cases h

/-- The audio bracket of a trace and what a step adds to it. -/
@[simp] theorem audioOpen_append (xs ys : List Event) : audioOpen (xs ++ ys) = ys.foldl audioStep (audioOpen xs) :=
  List.foldl_append

@[simp] theorem audioStep_pause : audioStep (some false) .audioPause = some true := rfl
@[simp] theorem audioStep_resume : audioStep (some true) .audioResume = some false := rfl

end Sys2Proof.Machine
end

