-- ==== Sys2Proof/Laws/Memory.lean ====
section
/-! SUPPORT. The laws of the accumulation buffer: what a read gives after a write, that every operation keeps the
canonical form and the bounds, and what MemRead and MemWrite can do. -/

namespace Sys2Proof.Machine

/-! ### One byte -/

@[simp] theorem memGet_memSet_same (m : Memory) (a : Nat) (b : Byte) :
    memGet (memSet m a b) a = some b := by
  induction m with
  | nil => simp [memSet, memGet]
  | cons cell rest ih =>
    simp only [memSet]
    split
    · simp [memGet]
    · split
      · simp [memGet]
      · rename_i hne
        simp [memGet, hne, ih]

theorem memGet_memSet_other (m : Memory) (a a' : Nat) (b : Byte) (h : a' ≠ a) :
    memGet (memSet m a b) a' = memGet m a' := by
  induction m with
  | nil => simp [memSet, memGet, h]
  | cons cell rest ih =>
    simp only [memSet]
    split
    · simp [memGet, h]
    · split
      · rename_i heq
        subst heq
        simp [memGet, h]
      · simp [memGet, ih]

theorem mem_memSet {m : Memory} {a : Nat} {b : Byte} {cell : Host.Cell} (h : cell ∈ memSet m a b) :
    cell = (a, b) ∨ cell ∈ m := by
  induction m with
  | nil => simpa [memSet] using h
  | cons c rest ih =>
    simp only [memSet] at h
    split at h
    · simp at h; simp [h]
    · split at h
      · simp at h; rcases h with h | h <;> simp [h]
      · simp at h
        rcases h with h | h
        · simp [h]
        · rcases ih h with h | h <;> simp [h]

/-! ### The canonical form -/

theorem wf_tail {cell : Host.Cell} {m : Memory} (h : Memory.wf (cell :: m) = true) : Memory.wf m = true := by
  cases m with
  | nil => rfl
  | cons c rest => simp [Memory.wf] at h; exact h.2

theorem wf_cons_iff (cell : Host.Cell) (m : Memory) :
    Memory.wf (cell :: m) = true ↔ Memory.wf m = true ∧ ∀ c ∈ m, cell.1 < c.1 := by
  induction m generalizing cell with
  | nil => simp [Memory.wf]
  | cons c rest ih =>
    have hc := ih c
    simp only [Memory.wf, Bool.and_eq_true, decide_eq_true_eq, List.mem_cons, forall_eq_or_imp]
    constructor
    · rintro ⟨hlt, hw⟩
      exact ⟨hw, hlt, fun x hx => Nat.lt_trans hlt ((hc.mp hw).2 x hx)⟩
    · rintro ⟨hw, hlt, _⟩
      exact ⟨hlt, hw⟩

/-- Storing a byte keeps the canonical form. -/
theorem wf_memSet (m : Memory) (a : Nat) (b : Byte) (h : Memory.wf m = true) :
    Memory.wf (memSet m a b) = true := by
  induction m with
  | nil => rfl
  | cons cell rest ih =>
    have hr := (wf_cons_iff cell rest).mp h
    simp only [memSet]
    split
    · rename_i hlt
      rw [wf_cons_iff]
      refine ⟨h, fun c hc => ?_⟩
      rcases List.mem_cons.mp hc with rfl | hc
      · exact hlt
      · exact Nat.lt_trans hlt (hr.2 c hc)
    · split
      · rename_i heq
        rw [wf_cons_iff]
        exact ⟨hr.1, fun c hc => by simpa [heq] using hr.2 c hc⟩
      · rename_i hlt hne
        rw [wf_cons_iff]
        refine ⟨ih hr.1, fun c hc => ?_⟩
        rcases mem_memSet hc with rfl | hc
        · simp only; omega
        · exact hr.2 c hc

/-- Two canonical memories that read the same are the same list. -/
theorem wf_ext {m m' : Memory} (h : Memory.wf m = true) (h' : Memory.wf m' = true)
    (hget : ∀ a, memGet m a = memGet m' a) : m = m' := by
  have get_none : ∀ {m : Memory} {a : Nat}, (∀ c ∈ m, a < c.1) → memGet m a = none := by
    intro m a hm
    induction m with
    | nil => rfl
    | cons c rest ih =>
      have := hm c (by simp)
      simp only [memGet]
      rw [if_neg (by omega)]
      exact ih fun x hx => hm x (by simp [hx])
  induction m generalizing m' with
  | nil =>
    cases m' with
    | nil => rfl
    | cons c rest => have := hget c.1; simp [memGet] at this
  | cons c rest ih =>
    cases m' with
    | nil => have := hget c.1; simp [memGet] at this
    | cons c' rest' =>
      have hr := (wf_cons_iff c rest).mp h
      have hr' := (wf_cons_iff c' rest').mp h'
      have hkey : c.1 = c'.1 := by
        rcases Nat.lt_trichotomy c.1 c'.1 with hlt | heq | hgt
        · have := hget c.1
          rw [show memGet (c :: rest) c.1 = some c.2 by simp [memGet]] at this
          rw [get_none fun x hx => by
            rcases List.mem_cons.mp hx with rfl | hx
            · exact hlt
            · exact Nat.lt_trans hlt (hr'.2 x hx)] at this
          cases this
        · exact heq
        · have := hget c'.1
          rw [show memGet (c' :: rest') c'.1 = some c'.2 by simp [memGet]] at this
          rw [get_none fun x hx => by
            rcases List.mem_cons.mp hx with rfl | hx
            · exact hgt
            · exact Nat.lt_trans hgt (hr.2 x hx)] at this
          cases this
      have hval : c.2 = c'.2 := by simpa [memGet, hkey] using hget c.1
      have hrest : rest = rest' := by
        refine ih hr.1 hr'.1 fun a => ?_
        have hga := hget a
        simp only [memGet, hkey] at hga
        by_cases ha : a = c'.1
        · rw [get_none fun x hx => by rw [ha, ← hkey]; exact hr.2 x hx,
            get_none fun x hx => by rw [ha]; exact hr'.2 x hx]
        · simpa [ha] using hga
      rw [hrest, Prod.ext hkey hval]

/-! ### Byte strings -/

/-- Reading one byte after a byte string was stored. -/
theorem memGet_memSetN (m : Memory) (off : Nat) (v : Bytes) (a : Nat) :
    memGet (memSetN m off v) a =
      if off ≤ a ∧ a < off + v.length then v[a - off]? else memGet m a := by
  induction v generalizing m off with
  | nil => rw [if_neg (by simp only [List.length_nil]; omega)]; rfl
  | cons b rest ih =>
    rw [memSetN, ih]
    by_cases h1 : off + 1 ≤ a ∧ a < off + 1 + rest.length
    · have h2 : off ≤ a ∧ a < off + (b :: rest).length := by simp; omega
      rw [if_pos h1, if_pos h2]
      obtain ⟨k, hk⟩ : ∃ k, a - off = k + 1 := ⟨a - off - 1, by omega⟩
      rw [hk, List.getElem?_cons_succ]
      congr 1
      omega
    · rw [if_neg h1]
      by_cases h3 : a = off
      · subst h3; simp
      · rw [memGet_memSet_other _ _ _ _ h3, if_neg]
        simp only [List.length_cons]
        omega

theorem storedAt_memSetN (m : Memory) (off : Nat) (v : Bytes) : StoredAt m off v (memSetN m off v) :=
  memGet_memSetN m off v

theorem mem_memSetN {m : Memory} {off : Nat} {v : Bytes} {cell : Host.Cell} (h : cell ∈ memSetN m off v) :
    cell ∈ m ∨ (off ≤ cell.1 ∧ cell.1 < off + v.length) := by
  induction v generalizing m off with
  | nil => exact Or.inl h
  | cons b rest ih =>
    rcases ih h with h | h
    · rcases mem_memSet h with rfl | h
      · right; simp
      · exact Or.inl h
    · right; simp only [List.length_cons]; omega

/-- Storing a byte string keeps the canonical form. -/
theorem wf_memSetN (m : Memory) (off : Nat) (v : Bytes) (h : Memory.wf m = true) :
    Memory.wf (memSetN m off v) = true := by
  induction v generalizing m off with
  | nil => exact h
  | cons b rest ih => exact ih _ _ (wf_memSet m off b h)

/-- A byte that has a value keeps having one. -/
theorem isSome_memSetN (m : Memory) (off : Nat) (v : Bytes) (a : Nat) (h : (memGet m a).isSome = true) :
    (memGet (memSetN m off v) a).isSome = true := by
  rw [memGet_memSetN]
  split
  · rename_i hr
    simp [List.getElem?_eq_getElem (show a - off < v.length by omega)]
  · exact h

/-- What a read of `n` bytes gives, byte by byte. -/
theorem memGetN_eq_some_iff (m : Memory) (off n : Nat) (v : Bytes) :
    memGetN m off n = some v ↔ v.length = n ∧ ∀ i, i < n → memGet m (off + i) = v[i]? := by
  induction n generalizing off v with
  | zero =>
    constructor
    · intro h
      simp only [memGetN, Option.some.injEq] at h
      subst h
      exact ⟨rfl, fun i hi => absurd hi (by omega)⟩
    · rintro ⟨hl, _⟩
      simp [memGetN, List.length_eq_zero_iff.mp hl]
  | succ n ih =>
    constructor
    · intro h
      simp only [memGetN] at h
      split at h
      · rename_i b rest hb hrest
        cases h
        obtain ⟨hl, hi⟩ := (ih (off + 1) rest).mp hrest
        refine ⟨by simp [hl], fun i hin => ?_⟩
        cases i with
        | zero => simpa using hb
        | succ i =>
          have := hi i (by omega)
          rw [List.getElem?_cons_succ, ← this]
          congr 1
          omega
      · cases h
    · rintro ⟨hl, hi⟩
      cases v with
      | nil => simp at hl
      | cons b rest =>
        have h0 : memGet m off = some b := by simpa using hi 0 (by omega)
        have hr : memGetN m (off + 1) n = some rest := by
          refine (ih (off + 1) rest).mpr ⟨by simpa using hl, fun i hin => ?_⟩
          have := hi (i + 1) (by omega)
          rw [List.getElem?_cons_succ] at this
          rw [← this]
          congr 1
          omega
        simp [memGetN, h0, hr]

/-- A read of `n` bytes has a value exactly when each of them has one. -/
theorem memGetN_isSome_iff (m : Memory) (off n : Nat) :
    (memGetN m off n).isSome = true ↔ ∀ i, i < n → (memGet m (off + i)).isSome = true := by
  induction n generalizing off with
  | zero => simp [memGetN]
  | succ n ih =>
    have hs : (memGetN m off (n + 1)).isSome = true ↔
        (memGet m off).isSome = true ∧ (memGetN m (off + 1) n).isSome = true := by
      simp only [memGetN]
      cases memGet m off <;> cases memGetN m (off + 1) n <;> simp
    rw [hs, ih]
    constructor
    · rintro ⟨h0, hr⟩ i hi
      cases i with
      | zero => exact h0
      | succ i => rw [show off + (i + 1) = off + 1 + i by omega]; exact hr i (by omega)
    · intro h
      exact ⟨h 0 (by omega), fun i hi => by rw [show off + 1 + i = off + (i + 1) by omega]; exact h _ (by omega)⟩

/-- A read depends on the bytes it reads only. -/
theorem memGetN_congr {m m' : Memory} {off n : Nat} (h : ∀ i, i < n → memGet m (off + i) = memGet m' (off + i)) :
    memGetN m off n = memGetN m' off n := by
  induction n generalizing off with
  | zero => rfl
  | succ n ih =>
    have h0 := h 0 (by omega)
    have hr : memGetN m (off + 1) n = memGetN m' (off + 1) n :=
      ih fun i hi => by rw [show off + 1 + i = off + (i + 1) by omega]; exact h _ (by omega)
    simp only [Nat.add_zero] at h0
    simp [memGetN, h0, hr]

/-- Two reads, one after the other, are one. -/
theorem memGetN_append {m : Memory} {off n k : Nat} {v w : Bytes} (hv : memGetN m off n = some v)
    (hw : memGetN m (off + n) k = some w) : memGetN m off (n + k) = some (v ++ w) := by
  rw [memGetN_eq_some_iff] at hv hw ⊢
  refine ⟨by simp [hv.1, hw.1], fun i hi => ?_⟩
  by_cases h : i < n
  · rw [hv.2 i h, List.getElem?_append_left (by omega)]
  · rw [List.getElem?_append_right (by omega), hv.1, ← hw.2 (i - n) (by omega)]
    congr 1
    omega

/-- A byte string reads back where it was stored. -/
theorem memGetN_memSetN_same (m : Memory) (off : Nat) (v : Bytes) :
    memGetN (memSetN m off v) off v.length = some v := by
  rw [memGetN_eq_some_iff]
  refine ⟨rfl, fun i hi => ?_⟩
  rw [memGet_memSetN, if_pos (by omega)]
  congr 1
  omega

/-- A byte string stored elsewhere leaves a read alone. -/
theorem memGetN_memSetN_other (m : Memory) (off n off' : Nat) (v : Bytes)
    (h : off + n ≤ off' ∨ off' + v.length ≤ off) :
    memGetN (memSetN m off' v) off n = memGetN m off n := by
  refine memGetN_congr fun i hi => ?_
  rw [memGet_memSetN, if_neg (by omega)]

/-! ### MemRead and MemWrite -/

/-- What MemRead can do (rule R51). -/
theorem memRead_cases (off n : Nat) (s : State) :
    (∃ v, off + n ≤ s.cfg.C ∧ memGetN s.acc off n = some v ∧ memRead off n s = .done v s) ∨
      ((s.cfg.C < off + n ∨ memGetN s.acc off n = none) ∧
        memRead off n s = .faulted (markFault .accessRange s)) := by
  unfold memRead
  split
  · rename_i hb
    split
    · rename_i v hv; exact Or.inl ⟨v, hb, hv, rfl⟩
    · rename_i hv; exact Or.inr ⟨Or.inr hv, rfl⟩
  · rename_i hb; exact Or.inr ⟨Or.inl (by omega), rfl⟩

theorem memRead_done {off n : Nat} {s : State} {v : Bytes} (hb : off + n ≤ s.cfg.C)
    (hv : memGetN s.acc off n = some v) : memRead off n s = .done v s := by
  simp [memRead, hb, hv]

theorem memWrite_done {off : Nat} {v : Bytes} {s : State} (h : off + v.length ≤ s.cfg.C) :
    memWrite off v s = .done () { s with acc := memSetN s.acc off v } := by
  simp [memWrite, h]

theorem memWrite_fault {off : Nat} {v : Bytes} {s : State} (h : s.cfg.C < off + v.length) :
    memWrite off v s = .faulted (markFault .accessRange s) := by
  simp [memWrite, Nat.not_le.mpr h]

@[simp] theorem le16_length (v : Half) : (le16 v).length = 2 := rfl

@[simp] theorem zeros_length (n : Nat) : (zeros n).length = n := by simp [zeros]

/-- Reset's memory has the canonical form. -/
theorem wf_reset : Memory.wf State.reset.acc = true := rfl

end Sys2Proof.Machine
end

