-- ==== Sys2Proof/Laws/Crc.lean ====
section
/-! SUPPORT. The laws of the checksum engine: what CRC_RANGE does, said once through `crc16`. -/

namespace Sys2Proof.Machine

/-- The loop over bytes that all have a value folds them into CRC. -/
theorem crcLoop_done (n i : Nat) (s : State) (v : Bytes) (hb : i + n ≤ s.cfg.C)
    (hv : memGetN s.acc i n = some v) :
    crcLoop n i s = .done () { s with crc := v.foldl crcStep s.crc } := by
  induction n generalizing i s v with
  | zero =>
    simp only [memGetN, Option.some.injEq] at hv
    subst hv
    rfl
  | succ n ih =>
    simp only [memGetN] at hv
    split at hv
    · rename_i b rest hb1 hrest
      cases hv
      have h1 : memGetN s.acc i 1 = some [b] := by simp [memGetN, hb1]
      rw [crcLoop, memRead_done (by omega) h1, andThen_done]
      simp only [List.headD_cons]
      rw [ih (i + 1) (crcByte b s) rest (by simpa using by omega) (by simpa using hrest)]
      simp [crcByte]
    · cases hv

/-- CRC_RANGE over bytes that all have a value: CRC is their crc16, nothing else changes (rule R104). -/
theorem crcRange_done (L : Nat) (s : State) (v : Bytes) (hb : L ≤ s.cfg.C)
    (hv : memGetN s.acc 0 L = some v) :
    crcRange L s = .done (crc16 v) { s with crc := crc16 v } := by
  rw [crcRange, crcLoop_done L 0 (crcSeed s) v (by simpa using hb) (by simpa using hv)]
  rfl

/-- The loop meets ACCESS_RANGE where a byte is outside ACC or has no value; only CRC has changed. -/
theorem crcLoop_fault (n i : Nat) (s : State) (h : s.cfg.C < i + n ∨ memGetN s.acc i n = none) (hn : 0 < n) :
    ∃ c, crcLoop n i s = .faulted (markFault .accessRange { s with crc := c }) := by
  induction n generalizing i s with
  | zero => omega
  | succ n ih =>
    rw [crcLoop]
    rcases memRead_cases i 1 s with ⟨v, hb, hv, hr⟩ | ⟨_, hr⟩
    · rw [hr, andThen_done]
      have hlen := ((memGetN_eq_some_iff _ _ _ _).mp hv).1
      have h0 : 0 < n := by
        rcases Nat.eq_zero_or_pos n with rfl | h0
        · rcases h with h | h
          · omega
          · rw [hv] at h; cases h
        · exact h0
      have hnext : (crcByte (v.headD 0) s).cfg.C < i + 1 + n ∨
          memGetN (crcByte (v.headD 0) s).acc (i + 1) n = none := by
        rcases h with h | h
        · left; simp only [crcByte_cfg]; omega
        · right
          simp only [crcByte_acc]
          cases hw : memGetN s.acc (i + 1) n with
          | none => rfl
          | some w =>
            have hj := memGetN_append hv hw
            rw [Nat.add_comm 1 n] at hj
            rw [hj] at h
            cases h
      obtain ⟨c, hc⟩ := ih (i + 1) (crcByte (v.headD 0) s) hnext h0
      exact ⟨c, hc⟩
    · exact ⟨s.crc, by rw [hr]; rfl⟩

/-- What CRC_RANGE can do. -/
theorem crcRange_cases (L : Nat) (s : State) :
    (∃ v, L ≤ s.cfg.C ∧ memGetN s.acc 0 L = some v ∧
        crcRange L s = .done (crc16 v) { s with crc := crc16 v }) ∨
      ((s.cfg.C < L ∨ memGetN s.acc 0 L = none) ∧
        ∃ c, crcRange L s = .faulted (markFault .accessRange { s with crc := c })) := by
  by_cases hb : L ≤ s.cfg.C
  · cases hv : memGetN s.acc 0 L with
    | some v => exact Or.inl ⟨v, hb, rfl, crcRange_done L s v hb hv⟩
    | none =>
      have h0 : 0 < L := by
        rcases Nat.eq_zero_or_pos L with rfl | h0
        · simp [memGetN] at hv
        · exact h0
      obtain ⟨c, hc⟩ := crcLoop_fault L 0 (crcSeed s) (Or.inr (by simpa using hv)) h0
      exact Or.inr ⟨Or.inr rfl, c, by rw [crcRange, hc]; rfl⟩
  · have h0 : 0 < L := by omega
    obtain ⟨c, hc⟩ := crcLoop_fault L 0 (crcSeed s) (Or.inl (by simpa using by omega)) h0
    exact Or.inr ⟨Or.inl (by omega), c, by rw [crcRange, hc]; rfl⟩

end Sys2Proof.Machine
end

