-- ==== Sys2Proof/Laws/Operations.lean ====
section
/-! SUPPORT. One lemma for each shared operation of the sequencer and the dispatcher, saying once everything it can
do; later proofs cite them and do not unfold the operation. -/

namespace Sys2Proof.Machine

/-! ### The parameters -/

/-- Rule R8 as propositions. -/
theorem admitted_iff (c : Config) :
    admitted c = true ↔
      c.P = 4 ∧ c.P < c.F ∧ (c.C - 1) % payloadSize c ≠ 0 ∧ maxFrames c < 2 ^ 16 ∧ c.F < 2 ^ 16 := by
  simp [admitted, and_assoc]

theorem payloadSize_pos {c : Config} (h : admitted c = true) : 0 < payloadSize c := by
  have := (admitted_iff c).mp h
  simp only [payloadSize]
  omega

theorem prefix_add_payloadSize {c : Config} (h : admitted c = true) : c.P + payloadSize c = c.F := by
  have := (admitted_iff c).mp h
  simp only [payloadSize]
  omega

/-- A payload length that the overflow detector accepts leaves room for the trailer (rules R8 and R133). -/
theorem room_for_trailer {c : Config} (h : admitted c = true) (k : Nat) (hk : k * payloadSize c < c.C) :
    k * payloadSize c + 2 ≤ c.C := by
  have h8 := (admitted_iff c).mp h
  by_contra hcon
  have heq : c.C - 1 = k * payloadSize c := by omega
  exact h8.2.2.1 (by rw [heq]; exact Nat.mul_mod_left _ _)

/-- Below the capacity the frame count is at most MAXF (rules R7 and R133). -/
theorem le_maxFrames_iff {c : Config} (h : admitted c = true) (k : Nat) :
    k * payloadSize c < c.C ↔ k ≤ maxFrames c := by
  have hN := payloadSize_pos h
  have h8 := (admitted_iff c).mp h
  have hC : 0 < c.C := by
    rcases Nat.eq_zero_or_pos c.C with h0 | h0
    · exact absurd (by simp [h0]) h8.2.2.1
    · exact h0
  rw [maxFrames, Nat.le_div_iff_mul_le hN]
  omega

/-- A cursor that the overflow detector accepts does not wrap when it counts the frame. -/
theorem toNat_add_one {c : Config} (h : admitted c = true) (cur : Half) (ho : nextOffset c cur < c.C) :
    (cur + 1).toNat = cur.toNat + 1 := by
  have hm := (le_maxFrames_iff h (cur.toNat + 1)).mp ho
  have h8 := (admitted_iff c).mp h
  rw [BitVec.toNat_add, show (1 : Half).toNat = 1 from rfl]
  omega

theorem nextOffset_eq {c : Config} (cur : Half) : nextOffset c cur = frameOffset c cur + payloadSize c := by
  simp [nextOffset, frameOffset, Nat.add_mul]

@[simp] theorem frameOffset_zero (c : Config) : frameOffset c 0#16 = 0 := by simp [frameOffset]

theorem payload_length {s : State} (hc : admitted s.cfg = true) (hs : s.scratch.length = s.cfg.F) :
    (payload s).length = payloadSize s.cfg := by
  have := prefix_add_payloadSize hc
  simp only [payload, List.length_take, List.length_drop, hs]
  omega

theorem payload_eq_drop {s : State} (hc : admitted s.cfg = true) (hs : s.scratch.length = s.cfg.F) :
    payload s = s.scratch.drop s.cfg.P := by
  have := prefix_add_payloadSize hc
  rw [payload, List.take_of_length_le]
  simp only [List.length_drop, hs]
  omega

/-! ### The sequencer -/

theorem ovf_iff (c : Config) (cur : Half) : ovf c cur = true ↔ c.C ≤ nextOffset c cur := by
  simp [ovf]

/-- A data frame that overflows (rules R124 and R127). -/
theorem ingestData_overflow {d : Dest} {s : State} (h : s.cfg.C ≤ nextOffset s.cfg (cursor d s)) :
    ingestData d s = .done .overflow (setCursor d 0 s) := by
  rw [ingestData, if_pos ((ovf_iff _ _).mpr h)]

/-- A data frame that is appended (rules R124 and R127). -/
theorem ingestData_append {d : Dest} {s : State} (h : nextOffset s.cfg (cursor d s) < s.cfg.C)
    (hp : (payload s).length = payloadSize s.cfg) :
    ingestData d s =
      .done .contin (setCursor d (cursor d s + 1)
        { s with acc := memSetN s.acc (frameOffset s.cfg (cursor d s)) (payload s) }) := by
  have ho : ¬ovf s.cfg (cursor d s) = true := by rw [ovf_iff]; omega
  rw [ingestData, if_neg ho, memWrite_done (by rw [hp, ← nextOffset_eq]; omega), andThen_done]
  cases d <;> rfl

/-- The common part of a sentinel (rules R125 and R128). -/
theorem closeTransfer_done {d : Dest} {s : State} {v : Bytes} (hl : v.length = frameOffset s.cfg (cursor d s))
    (hb : v.length + 2 ≤ s.cfg.C) (hv : AccPrefix s.acc v) :
    closeTransfer d s =
      .done (crc16 v) (setCursor d 0
        { s with crc := crc16 v, acc := memSetN s.acc (frameOffset s.cfg (cursor d s)) (le16 (crc16 v)) }) := by
  rw [closeTransfer, ← hl, crcRange_done v.length s v (by omega) hv, andThen_done]
  have hcur : cursor d { s with crc := crc16 v } = cursor d s := by cases d <;> rfl
  simp only [hcur, ← hl, trailerWrite]
  rw [memWrite_done (by simpa using hb), andThen_done]

/-- What the common part of a sentinel can do, whatever the state. -/
theorem closeTransfer_cases (d : Dest) (s : State) :
    (∃ v, v.length = frameOffset s.cfg (cursor d s) ∧ AccPrefix s.acc v ∧ v.length + 2 ≤ s.cfg.C ∧
        closeTransfer d s =
          .done (crc16 v) (setCursor d 0
            { s with crc := crc16 v, acc := memSetN s.acc (frameOffset s.cfg (cursor d s)) (le16 (crc16 v)) })) ∨
      ((s.cfg.C < frameOffset s.cfg (cursor d s) + 2 ∨
          memGetN s.acc 0 (frameOffset s.cfg (cursor d s)) = none) ∧
        ∃ c, closeTransfer d s = .faulted (markFault .accessRange { s with crc := c })) := by
  rcases crcRange_cases (frameOffset s.cfg (cursor d s)) s with ⟨v, hb, hv, hr⟩ | ⟨hbad, c, hr⟩
  · have hl := ((memGetN_eq_some_iff _ _ _ _).mp hv).1
    by_cases hroom : v.length + 2 ≤ s.cfg.C
    · have hv' : AccPrefix s.acc v := by rw [AccPrefix, hl]; exact hv
      exact Or.inl ⟨v, hl, hv', hroom, closeTransfer_done hl hroom hv'⟩
    · refine Or.inr ⟨Or.inl (by omega), crc16 v, ?_⟩
      rw [closeTransfer, hr, andThen_done]
      have hcur : cursor d { s with crc := crc16 v } = cursor d s := by cases d <;> rfl
      simp only [hcur, trailerWrite]
      rw [memWrite_fault (by simp only [le16_length]; omega), andThen_faulted]
  · refine Or.inr ⟨?_, c, by rw [closeTransfer, hr, andThen_faulted]⟩
    rcases hbad with h | h
    · exact Or.inl (by omega)
    · exact Or.inr h

/-- The COMMIT request and its answer, or the wait for it (rules R128 and R169). -/
theorem callCommit_nil {crc : Half} {length : Nat} {before : Memory} {s : State} (h : s.commitIn = []) :
    callCommit crc length before s =
      .waiting { emit (.commitRequest length s.cfg.commitBase) s with phase := .waitCommit crc length before } := by
  simp [callCommit, h]

theorem callCommit_cons {crc : Half} {length : Nat} {before : Memory} {s : State} {a : CommitAnswer}
    {rest : List CommitAnswer} (h : s.commitIn = a :: rest) :
    callCommit crc length before s =
      commitAnswered crc a { emit (.commitRequest length s.cfg.commitBase) s with commitIn := rest } := by
  simp [callCommit, h]

/-- The PARSE request and its answer, or the wait for it (rules R155 and R168). -/
theorem callParse_nil {s : State} (h : s.parseIn = []) :
    callParse s =
      .waiting { emit (.parseRequest (commandLine s) s.scratchLen.toNat) s with phase := .waitParse } := by
  simp [callParse, h]

theorem callParse_cons {s : State} {a : ParseAnswer} {rest : List ParseAnswer} (h : s.parseIn = a :: rest) :
    callParse s =
      parseAnswered a { emit (.parseRequest (commandLine s) s.scratchLen.toNat) s with parseIn := rest } := by
  simp [callParse, h]

/-- The session state after a parser's answer within its contract (rule R155). -/
def transitionTarget (a : ParseAnswer) (session : BitVec 2) : BitVec 2 :=
  if a.transition = 1#2 then 0b01#2 else if a.transition = 2#2 then 0b10#2 else session

theorem parseAnswered_fault {a : ParseAnswer} {s : State} (h : a.transition = 3#2) :
    parseAnswered a s = .faulted (markFault .parserContract (emit (.parseResponse a) s)) := by
  simp [parseAnswered, h]

theorem parseAnswered_done {a : ParseAnswer} {s : State} (h : a.transition ≠ 3#2) :
    parseAnswered a s =
      .done () { emit (.replyOut a.reply) (emit (.parseResponse a) s) with
        session := transitionTarget a s.session } := by
  unfold parseAnswered transitionTarget
  simp only [h, if_false]
  split
  · rfl
  · split <;> rfl

/-! ### A dispatch operation as a whole -/

/-- A dispatch operation that accepts a chunk. -/
theorem dispatchOp_ready {rule : Nat → State → Attempt Unit} {s : State} {b : Bytes} {rest : List Bytes}
    (h : Ready s b rest) :
    dispatchOp rule s = finish (rule b.length (prologue b { s with chunkIn := rest })) := by
  rw [dispatchOp, operate_live h.live]
  simp [h.phase, h.chunk]

/-! Each dispatch operation that accepts a chunk is its own rule between prologue and epilogue (rules R155 to R163
and R165). -/

theorem exec_dispatchCmd {s : State} {b : Bytes} {rest : List Bytes} (sent : Bool) (h : Ready s b rest) :
    exec (.dispatchCmd sent) s = finish (callParse (prologue b { s with chunkIn := rest })) :=
  dispatchOp_ready (rule := fun _ s => callParse s) h

theorem exec_dispatchCmdToolong {s : State} {b : Bytes} {rest : List Bytes} (sent : Bool) (h : Ready s b rest) :
    exec (.dispatchCmdToolong sent) s = finish (rejectTooLong b.length (prologue b { s with chunkIn := rest })) :=
  dispatchOp_ready (rule := rejectTooLong) h

theorem exec_dispatchToolong {s : State} {b : Bytes} {rest : List Bytes} (d : Dest) (sent : Bool)
    (h : Ready s b rest) :
    exec (d.dispatchToolong sent) s = finish (abortTooLong d b.length (prologue b { s with chunkIn := rest })) := by
  cases d
  · exact dispatchOp_ready (rule := abortTooLong .volatile) h
  · exact dispatchOp_ready (rule := abortTooLong .durable) h

theorem exec_dispatchData {s : State} {b : Bytes} {rest : List Bytes} (d : Dest) (h : Ready s b rest) :
    exec d.dispatchData s = finish (dataFrame d (prologue b { s with chunkIn := rest })) := by
  cases d
  · exact dispatchOp_ready (rule := fun _ s => dataFrame .volatile s) h
  · exact dispatchOp_ready (rule := fun _ s => dataFrame .durable s) h

theorem exec_dispatchSvStop {s : State} {b : Bytes} {rest : List Bytes} (h : Ready s b rest) :
    exec .dispatchSvStop s = finish (volatileStop (prologue b { s with chunkIn := rest })) :=
  dispatchOp_ready (rule := fun _ s => volatileStop s) h

theorem exec_dispatchSdStop {s : State} {b : Bytes} {rest : List Bytes} (h : Ready s b rest) :
    exec .dispatchSdStop s = finish (durableStop (prologue b { s with chunkIn := rest })) :=
  dispatchOp_ready (rule := fun _ s => durableStop s) h

theorem exec_dispatchReserved {s : State} {b : Bytes} {rest : List Bytes} (long sent : Bool)
    (h : Ready s b rest) :
    exec (.dispatchReserved long sent) s =
      .next (markFault .reservedState (prologue b { s with chunkIn := rest })) :=
  dispatchOp_ready (rule := fun _ s => .faulted (markFault .reservedState s)) h

/-- A dispatch operation that accepts none. -/
theorem dispatchOp_idle {rule : Nat → State → Attempt Unit} {s : State} (hl : Live s)
    (h : s.phase ≠ .between ∨ s.chunkIn = []) : dispatchOp rule s = .next s := by
  rw [dispatchOp, operate_live hl]
  split
  · rename_i hp hc
    rcases h with h | h
    · exact absurd hp h
    · rw [hc] at h; cases h
  · rfl

/-- The dispatch operation a selector decodes to is the one that its three parts select (rules R76 and R77). -/
theorem exec_decodeDsel (session : BitVec 2) (long stop : Bool) (s : State) :
    exec (decodeDsel (dselWord session long stop)) s = route session long stop s := by
  have h4 : session = 0b00#2 ∨ session = 0b01#2 ∨ session = 0b10#2 ∨ session = 0b11#2 := by
    revert session; decide
  rcases h4 with rfl | rfl | rfl | rfl <;> cases long <;> cases stop <;> rfl

theorem dselWord_surjective (v : BitVec 4) : ∃ session long stop, v = dselWord session long stop :=
  ⟨v.extractLsb' 2 2, v.getLsbD 1, v.getLsbD 0, by revert v; decide⟩

/-! ### The prologue's frame -/

theorem prologue_zero_scratch {s : State} {b : Bytes} (hz : s.scratch = zeros s.cfg.F) (hb : b.length ≤ s.cfg.F) :
    (prologue b s).scratch = padded s.cfg b := by
  rw [prologue_scratch b s hb, hz, padded, zeros, zeros, List.drop_replicate]

theorem padded_length {c : Config} {b : Bytes} (hb : b.length ≤ c.F) : (padded c b).length = c.F := by
  simp [padded]
  omega

theorem paddedPayload_length {c : Config} {b : Bytes} (hc : admitted c = true) (hb : b.length ≤ c.F) :
    (paddedPayload c b).length = payloadSize c := by
  have := prefix_add_payloadSize hc
  simp only [paddedPayload, List.length_drop, padded_length hb]
  omega

/-- The payload that a rule finds after the prologue: the chunk's, padded (rules R71, R120 and R152). -/
theorem payload_prologue {s : State} {b : Bytes} (rest : List Bytes) (hc : admitted s.cfg = true)
    (hz : s.scratch = zeros s.cfg.F) (hb : b.length ≤ s.cfg.F) :
    payload (prologue b { s with chunkIn := rest }) = paddedPayload s.cfg b := by
  have hz' : (prologue b { s with chunkIn := rest }).scratch = padded s.cfg b :=
    prologue_zero_scratch (s := { s with chunkIn := rest }) hz hb
  rw [payload_eq_drop (by simpa using hc) (by simp [hz', padded_length hb]), hz']
  simp [paddedPayload]

/-- A dispatch operation that is done ends in `concluded`, with the events of its rule. -/
theorem epilogue_prologue (s : State) (b : Bytes) (rest : List Bytes) :
    epilogue (prologue b { s with chunkIn := rest }) = concluded s b rest [] := by
  unfold epilogue prologue scratchLoad concluded emit
  split <;> simp

end Sys2Proof.Machine
end

