-- ==== Sys2Proof/Laws/Moves.lean ====
section
/-! SUPPORT. What a step can do, said once: `Moves s t` lists the ways in which a step goes from `s` to `t`, and
`step_total` says that a live state always has one of them. Invariants are proved by cases on it. -/

namespace Sys2Proof.Machine

/-- DISPATCH_SD_STOP after the commit stage's answer, before its epilogue (rule R161). -/
def commitEnd (crc : Half) (length : Nat) (a : CommitAnswer) (p : State) : State :=
  match a with
  | .ok => completed (.complete crc) (emit (.commitResponse .ok) p)
  | .fail => raise (.commitFailure crc length) (emit (.commitResponse .fail) p)

theorem commitAnswered_andThen (crc : Half) (length : Nat) (a : CommitAnswer) (p : State) :
    (commitAnswered crc a p).andThen (durableResult length) = .done () (commitEnd crc length a p) := by
  cases a <;> rfl

/-- DISPATCH_CMD after a parser's answer within its contract, before its epilogue (rule R155). -/
def parseEnd (a : ParseAnswer) (p : State) : State :=
  { emit (.replyOut a.reply) (emit (.parseResponse a) p) with session := transitionTarget a p.session }

/-- The state after the common part of a sentinel over the bytes `v` (rules R125 and R128). -/
def closed (d : Dest) (v : Bytes) (p : State) : State :=
  setCursor d 0
    { p with crc := crc16 v, acc := memSetN p.acc (frameOffset p.cfg (cursor d p)) (le16 (crc16 v)) }

/-- The payload of the current transfer as the sentinel finds it, with room for the trailer. -/
structure Closes (d : Dest) (v : Bytes) (p : State) : Prop where
  length : v.length = frameOffset p.cfg (cursor d p)
  bytes : AccPrefix p.acc v
  room : v.length + 2 ≤ p.cfg.C

/-- How a dispatch operation can end, from the state `p` that its prologue left, with the conditions TOOLONG and
SENT that selected it. -/
inductive Ran (long stop : Bool) (p : State) : State → Prop where
  | waitsParse (idle : p.session = 0b00#2) (short : long = false) (empty : p.parseIn = []) :
      Ran long stop p
        { emit (.parseRequest (commandLine p) p.scratchLen.toNat) p with phase := .waitParse }
  | parsed (a : ParseAnswer) (more : List ParseAnswer) (idle : p.session = 0b00#2) (short : long = false)
      (answer : p.parseIn = a :: more) (legal : a.transition ≠ 3#2) :
      Ran long stop p (epilogue (parseEnd a
        { emit (.parseRequest (commandLine p) p.scratchLen.toNat) p with parseIn := more }))
  | brokenContract (a : ParseAnswer) (more : List ParseAnswer) (idle : p.session = 0b00#2)
      (short : long = false) (answer : p.parseIn = a :: more) (illegal : a.transition = 3#2) :
      Ran long stop p (markFault .parserContract (emit (.parseResponse a)
        { emit (.parseRequest (commandLine p) p.scratchLen.toNat) p with parseIn := more }))
  | rejected (len : Nat) (idle : p.session = 0b00#2) (exceeds : long = true) :
      Ran long stop p (epilogue (raise (.chunkTooLong 0b00#2 len 0)
        (emit (.replyOut ⟨.err, some tooLongText⟩) p)))
  | aborted (d : Dest) (len : Nat) (streams : p.session = streaming d) (exceeds : long = true) :
      Ran long stop p (epilogue (raise (.chunkTooLong (streaming d) len (cursor d p).toNat) (setCursor d 0 p)))
  | overflowed (d : Dest) (streams : p.session = streaming d) (short : long = false) (data : stop = false)
      (exceeds : p.cfg.C ≤ nextOffset p.cfg (cursor d p)) :
      Ran long stop p (epilogue (raise (.transferOverflow d (cursor d p).toNat) (setCursor d 0 p)))
  | appended (d : Dest) (streams : p.session = streaming d) (short : long = false) (data : stop = false)
      (fits : nextOffset p.cfg (cursor d p) < p.cfg.C)
      (inside : frameOffset p.cfg (cursor d p) + (payload p).length ≤ p.cfg.C) :
      Ran long stop p (epilogue (emit (.replyOut ⟨.ok, none⟩) (setCursor d (cursor d p + 1)
        { p with acc := memSetN p.acc (frameOffset p.cfg (cursor d p)) (payload p) })))
  | badPayload (d : Dest) (streams : p.session = streaming d) (short : long = false) (data : stop = false)
      (fits : nextOffset p.cfg (cursor d p) < p.cfg.C)
      (outside : p.cfg.C < frameOffset p.cfg (cursor d p) + (payload p).length) :
      Ran long stop p (markFault .accessRange p)
  | badTransfer (d : Dest) (c : Half) (streams : p.session = streaming d) (short : long = false)
      (sentinel : stop = true)
      (bad : p.cfg.C < frameOffset p.cfg (cursor d p) + 2 ∨
        memGetN p.acc 0 (frameOffset p.cfg (cursor d p)) = none) :
      Ran long stop p (markFault .accessRange { p with crc := c })
  | completedV (v : Bytes) (streams : p.session = streaming .volatile) (short : long = false)
      (sentinel : stop = true) (closes : Closes .volatile v p) :
      Ran long stop p (epilogue (completed (.complete (crc16 v)) (closed .volatile v p)))
  | committedD (v : Bytes) (a : CommitAnswer) (more : List CommitAnswer)
      (streams : p.session = streaming .durable) (short : long = false) (sentinel : stop = true)
      (closes : Closes .durable v p) (answer : p.commitIn = a :: more) :
      Ran long stop p (epilogue (commitEnd (crc16 v) (commitLen p.cfg (frameOffset p.cfg p.curD)) a
        { emit (.commitRequest (commitLen p.cfg (frameOffset p.cfg p.curD)) p.cfg.commitBase)
            (closed .durable v p) with commitIn := more }))
  | waitsCommit (v : Bytes) (streams : p.session = streaming .durable) (short : long = false)
      (sentinel : stop = true) (closes : Closes .durable v p) (empty : p.commitIn = []) :
      Ran long stop p
        { emit (.commitRequest (commitLen p.cfg (frameOffset p.cfg p.curD)) p.cfg.commitBase)
            (closed .durable v p) with
          phase := .waitCommit (crc16 v) (commitLen p.cfg (frameOffset p.cfg p.curD)) p.acc }
  | reserved (session : p.session = 0b11#2) : Ran long stop p (markFault .reservedState p)

theorem finish_callParse (long stop : Bool) (p : State) (hs : p.session = 0b00#2) (hl : long = false) :
    ∃ t, finish (callParse p) = .next t ∧ Ran long stop p t := by
  cases hp : p.parseIn with
  | nil => exact ⟨_, by rw [callParse_nil hp, finish_waiting], .waitsParse hs hl hp⟩
  | cons a more =>
    by_cases h3 : a.transition = 3#2
    · exact ⟨_, by rw [callParse_cons hp, parseAnswered_fault h3, finish_faulted], .brokenContract a more hs hl hp h3⟩
    · exact ⟨_, by rw [callParse_cons hp, parseAnswered_done h3, finish_done]; rfl, .parsed a more hs hl hp h3⟩

theorem finish_dataFrame (d : Dest) (long stop : Bool) (p : State) (hs : p.session = streaming d)
    (hl : long = false) (hd : stop = false) :
    ∃ t, finish (dataFrame d p) = .next t ∧ Ran long stop p t := by
  by_cases ho : p.cfg.C ≤ nextOffset p.cfg (cursor d p)
  · refine ⟨_, ?_, .overflowed d hs hl hd ho⟩
    rw [dataFrame, ingestData_overflow ho, andThen_done]
    rfl
  · have hfits : nextOffset p.cfg (cursor d p) < p.cfg.C := by omega
    have hovf : ¬ovf p.cfg (cursor d p) = true := by rw [ovf_iff]; omega
    by_cases hb : frameOffset p.cfg (cursor d p) + (payload p).length ≤ p.cfg.C
    · refine ⟨_, ?_, .appended d hs hl hd hfits hb⟩
      rw [dataFrame, ingestData, if_neg hovf, memWrite_done hb, andThen_done, andThen_done]
      cases d <;> rfl
    · refine ⟨_, ?_, .badPayload d hs hl hd hfits (by omega)⟩
      rw [dataFrame, ingestData, if_neg hovf, memWrite_fault (by omega), andThen_faulted, andThen_faulted,
        finish_faulted]

theorem finish_svStop (long stop : Bool) (p : State) (hs : p.session = streaming .volatile) (hl : long = false)
    (hd : stop = true) :
    ∃ t, finish (volatileStop p) = .next t ∧
      Ran long stop p t := by
  rcases closeTransfer_cases .volatile p with ⟨v, hlen, hv, hroom, hc⟩ | ⟨hbad, c, hc⟩
  · exact ⟨_, by rw [volatileStop, ingestStopV, hc]; rfl, .completedV v hs hl hd ⟨hlen, hv, hroom⟩⟩
  · exact ⟨_, by rw [volatileStop, ingestStopV, hc]; rfl, .badTransfer .volatile c hs hl hd hbad⟩

theorem finish_sdStop (long stop : Bool) (p : State) (hs : p.session = streaming .durable) (hl : long = false)
    (hd : stop = true) :
    ∃ t, finish (durableStop p) = .next t ∧ Ran long stop p t := by
  rcases closeTransfer_cases .durable p with ⟨v, hlen, hv, hroom, hc⟩ | ⟨hbad, c, hc⟩
  · cases hq : p.commitIn with
    | nil =>
      refine ⟨_, ?_, .waitsCommit v hs hl hd ⟨hlen, hv, hroom⟩ hq⟩
      simp only [durableStop, ingestStopD]
      rw [hc, andThen_done, callCommit_nil (by simpa using hq), andThen_waiting, finish_waiting]
      rfl
    | cons a more =>
      refine ⟨_, ?_, .committedD v a more hs hl hd ⟨hlen, hv, hroom⟩ hq⟩
      simp only [durableStop, ingestStopD]
      rw [hc, andThen_done, callCommit_cons (a := a) (rest := more) (by simpa using hq),
        commitAnswered_andThen, finish_done]
      rfl
  · exact ⟨_, by simp only [durableStop, ingestStopD]; rw [hc]; rfl, .badTransfer .durable c hs hl hd hbad⟩

/-- The dispatch operation that a selector's parts select ends in one of the listed ways. -/
theorem route_ran {s : State} {b : Bytes} {rest : List Bytes} (long stop : Bool) (h : Ready s b rest) :
    ∃ t, route s.session long stop s = .next t ∧ Ran long stop (prologue b { s with chunkIn := rest }) t := by
  have hps : (prologue b { s with chunkIn := rest }).session = s.session := by simp
  have via {v : BitVec 2} (hs : s.session = v) : route s.session long stop s = route v long stop s :=
    congrArg (fun v => route v long stop s) hs
  have h4 : s.session = 0b00#2 ∨ s.session = 0b01#2 ∨ s.session = 0b10#2 ∨ s.session = 0b11#2 := by
    generalize s.session = v; revert v; decide
  rcases h4 with hs | hs | hs | hs <;> rw [via hs] <;> replace hps := hps.trans hs <;> cases long
  · obtain ⟨t, ht, hr⟩ := finish_callParse false stop _ hps rfl
    exact ⟨t, (dispatchOp_ready (rule := fun _ s => callParse s) h).trans ht, hr⟩
  · exact ⟨_, (dispatchOp_ready (rule := rejectTooLong) h).trans rfl, .rejected b.length hps rfl⟩
  · cases stop
    · obtain ⟨t, ht, hr⟩ := finish_dataFrame .volatile false false _ hps rfl rfl
      exact ⟨t, (dispatchOp_ready (rule := fun _ s => dataFrame .volatile s) h).trans ht, hr⟩
    · obtain ⟨t, ht, hr⟩ := finish_svStop false true _ hps rfl rfl
      exact ⟨t, (dispatchOp_ready (rule := fun _ s => volatileStop s) h).trans ht, hr⟩
  · exact ⟨_, (dispatchOp_ready (rule := abortTooLong .volatile) h).trans rfl,
      .aborted .volatile b.length hps rfl⟩
  · cases stop
    · obtain ⟨t, ht, hr⟩ := finish_dataFrame .durable false false _ hps rfl rfl
      exact ⟨t, (dispatchOp_ready (rule := fun _ s => dataFrame .durable s) h).trans ht, hr⟩
    · obtain ⟨t, ht, hr⟩ := finish_sdStop false true _ hps rfl rfl
      exact ⟨t, (dispatchOp_ready (rule := fun _ s => durableStop s) h).trans ht, hr⟩
  · exact ⟨_, (dispatchOp_ready (rule := abortTooLong .durable) h).trans rfl,
      .aborted .durable b.length hps rfl⟩
  · exact ⟨_, (dispatchOp_ready (rule := fun _ s => .faulted (markFault .reservedState s)) h).trans rfl,
      .reserved hps⟩
  · exact ⟨_, (dispatchOp_ready (rule := fun _ s => .faulted (markFault .reservedState s)) h).trans rfl,
      .reserved hps⟩

/-- The ways in which a step goes from one state to the next. -/
inductive Moves (s : State) : State → Prop where
  | holds : Moves s s
  | resets (k : Nat) (rst : s.rstIn = true) : Moves s (resetOp { s with draws := k })
  | runs (b : Bytes) (rest : List Bytes) (t : State) (ready : Ready s b rest) (noRst : s.rstIn = false)
      (ran : Ran (tooLong s.cfg b.length) (sent (scratchLoad b s)) (prologue b { s with chunkIn := rest }) t) :
      Moves s t
  | parses (a : ParseAnswer) (more : List ParseAnswer) (k : Nat) (waits : s.phase = .waitParse)
      (answer : s.parseIn = a :: more) (legal : a.transition ≠ 3#2) :
      Moves s (epilogue (parseEnd a { s with phase := .between, draws := k, parseIn := more }))
  | breaksContract (a : ParseAnswer) (more : List ParseAnswer) (k : Nat) (waits : s.phase = .waitParse)
      (answer : s.parseIn = a :: more) (illegal : a.transition = 3#2) :
      Moves s (markFault .parserContract
        (emit (.parseResponse a) { s with phase := .between, draws := k, parseIn := more }))
  | commits (a : CommitAnswer) (more : List CommitAnswer) (k : Nat) (crc : Half) (length : Nat)
      (before : Memory) (waits : s.phase = .waitCommit crc length before) (answer : s.commitIn = a :: more) :
      Moves s (epilogue (commitEnd crc length a { s with phase := .between, draws := k, commitIn := more }))

theorem execReset_live {s : State} (h : Live s) : execReset s = .next (resetOp s) := operate_live h _

/-- What `waitOn` can do: hold, take RST, or take the first answer. -/
theorem waitOn_cases {α : Type} (answers : List α) (resume : α → State → Host.Outcome State Fault Refusal)
    (s : State) :
    waitOn answers resume s = .next s ∨
      (s.rstIn = true ∧ ∃ k, waitOn answers resume s = execReset { s with draws := k }) ∨
      ∃ a more k, answers = a :: more ∧ waitOn answers resume s = resume a { s with draws := k } := by
  unfold waitOn
  split
  · exact Or.inl rfl
  · exact Or.inr (Or.inl ⟨‹_›, s.draws, rfl⟩)
  · exact Or.inr (Or.inr ⟨_, _, s.draws, rfl, rfl⟩)
  · split
    · exact Or.inr (Or.inl ⟨‹_›, s.draws + 1, rfl⟩)
    · exact Or.inr (Or.inr ⟨_, _, s.draws + 1, rfl, rfl⟩)

theorem waitStep_parse {s : State} (h : s.phase = .waitParse) :
    waitStep s = waitOn s.parseIn (fun a s => resumeParse a { s with parseIn := s.parseIn.tail }) s := by
  unfold waitStep
  rw [h]

theorem waitStep_commit {s : State} {crc : Half} {length : Nat} {before : Memory}
    (h : s.phase = .waitCommit crc length before) :
    waitStep s =
      waitOn s.commitIn (fun a s => resumeCommit crc length a { s with commitIn := s.commitIn.tail }) s := by
  unfold waitStep
  rw [h]

/-- A wait goes on in one of the listed ways. -/
theorem waitStep_moves {s : State} (h : Live s) : ∃ t, waitStep s = .next t ∧ Moves s t := by
  cases hp : s.phase with
  | between => exact ⟨s, by unfold waitStep; rw [hp], .holds⟩
  | waitParse =>
    rw [waitStep_parse hp]
    rcases waitOn_cases s.parseIn _ s with hw | ⟨hr, k, hw⟩ | ⟨a, more, k, hq, hw⟩
    · exact ⟨s, hw, .holds⟩
    · exact ⟨_, hw.trans (execReset_live ⟨h.cfg, h.fault⟩), .resets k hr⟩
    · have htail : s.parseIn.tail = more := by rw [hq]; rfl
      by_cases h3 : a.transition = 3#2
      · refine ⟨_, hw.trans ?_, .breaksContract a more k hp hq h3⟩
        simp only [resumeParse, htail]
        rw [parseAnswered_fault h3, finish_faulted]
      · refine ⟨_, hw.trans ?_, .parses a more k hp hq h3⟩
        simp only [resumeParse, htail]
        rw [parseAnswered_done h3, finish_done]
        rfl
  | waitCommit crc length before =>
    rw [waitStep_commit hp]
    rcases waitOn_cases s.commitIn _ s with hw | ⟨hr, k, hw⟩ | ⟨a, more, k, hq, hw⟩
    · exact ⟨s, hw, .holds⟩
    · exact ⟨_, hw.trans (execReset_live ⟨h.cfg, h.fault⟩), .resets k hr⟩
    · have htail : s.commitIn.tail = more := by rw [hq]; rfl
      refine ⟨_, hw.trans ?_, .commits a more k crc length before hp hq⟩
      simp only [resumeCommit, htail]
      rw [commitAnswered_andThen, finish_done]

/-- A step of a live block always goes on, in one of the listed ways. -/
theorem step_total {s : State} (h : Live s) : ∃ t, step s = .next t ∧ Moves s t := by
  rw [step, operate_live h]
  cases hp : s.phase with
  | waitParse => exact waitStep_moves h
  | waitCommit crc length before => exact waitStep_moves h
  | between =>
    cases hr : s.rstIn with
    | true =>
      refine ⟨_, ?_, .resets s.draws hr⟩
      simp only [nextOperation, hr]
      exact execReset_live h
    | false =>
      cases hc : s.chunkIn with
      | nil => exact ⟨s, by simp [nextOperation, hr, hc], .holds⟩
      | cons b rest =>
        have hready : Ready s b rest := ⟨h, hp, hc⟩
        obtain ⟨t, ht, hran⟩ := route_ran (tooLong s.cfg b.length) (sent (scratchLoad b s)) hready
        refine ⟨t, ?_, .runs b rest t hready hr hran⟩
        rw [← ht, ← exec_decodeDsel]
        simp [nextOperation, hr, hc, dselOf]

/-- What a step did, whichever state it led to. -/
theorem step_moves {s t : State} (h : step s = .next t) : Live s ∧ Moves s t := by
  have hl := (operate_next (show operate s _ = .next t from h)).1
  obtain ⟨t', ht', hm⟩ := step_total hl
  rw [h] at ht'
  cases ht'
  exact ⟨hl, hm⟩

end Sys2Proof.Machine
end

