-- ==== Sys2Proof/Laws/PerInstr.lean ====
section
/-! SUPPORT. The per-instruction family RowMatch: the code of an operation matches the match and mask columns of its
row in spec/opcode_table.json. -/

namespace Sys2Proof.Laws

/-- The code of the operation matches its row of the opcode table. -/
def RowMatch.Statement (i : Instr) : Prop :=
  ∃ r ∈ opcodeTable, r.mnemonic = i.mnemonic ∧ r.accepts (encode i) = true

theorem RowMatch.dispatchCmd (sent : Bool) : RowMatch.Statement (.dispatchCmd sent) :=
  ⟨⟨"DISPATCH_CMD", .dsel, some (0b0000, 0b1110)⟩, by simp [opcodeTable], rfl, by cases sent <;> rfl⟩

theorem RowMatch.dispatchCmdToolong (sent : Bool) : RowMatch.Statement (.dispatchCmdToolong sent) :=
  ⟨⟨"DISPATCH_CMD_TOOLONG", .dsel, some (0b0010, 0b1110)⟩, by simp [opcodeTable], rfl, by cases sent <;> rfl⟩

theorem RowMatch.dispatchSvData : RowMatch.Statement (.dispatchSvData) :=
  ⟨⟨"DISPATCH_SV_DATA", .dsel, some (0b0100, 0b1111)⟩, by simp [opcodeTable], rfl, by rfl⟩

theorem RowMatch.dispatchSvStop : RowMatch.Statement (.dispatchSvStop) :=
  ⟨⟨"DISPATCH_SV_STOP", .dsel, some (0b0101, 0b1111)⟩, by simp [opcodeTable], rfl, by rfl⟩

theorem RowMatch.dispatchSvToolong (sent : Bool) : RowMatch.Statement (.dispatchSvToolong sent) :=
  ⟨⟨"DISPATCH_SV_TOOLONG", .dsel, some (0b0110, 0b1110)⟩, by simp [opcodeTable], rfl, by cases sent <;> rfl⟩

theorem RowMatch.dispatchSdData : RowMatch.Statement (.dispatchSdData) :=
  ⟨⟨"DISPATCH_SD_DATA", .dsel, some (0b1000, 0b1111)⟩, by simp [opcodeTable], rfl, by rfl⟩

theorem RowMatch.dispatchSdStop : RowMatch.Statement (.dispatchSdStop) :=
  ⟨⟨"DISPATCH_SD_STOP", .dsel, some (0b1001, 0b1111)⟩, by simp [opcodeTable], rfl, by rfl⟩

theorem RowMatch.dispatchSdToolong (sent : Bool) : RowMatch.Statement (.dispatchSdToolong sent) :=
  ⟨⟨"DISPATCH_SD_TOOLONG", .dsel, some (0b1010, 0b1110)⟩, by simp [opcodeTable], rfl, by cases sent <;> rfl⟩

theorem RowMatch.dispatchReserved (tooLong sent : Bool) : RowMatch.Statement (.dispatchReserved tooLong sent) :=
  ⟨⟨"DISPATCH_RESERVED", .dsel, some (0b1100, 0b1100)⟩, by simp [opcodeTable], rfl, by cases tooLong <;> cases sent <;> rfl⟩

theorem RowMatch.frameStop : RowMatch.Statement (.frameStop) :=
  ⟨⟨"FRAME_STOP", .pfx32, some (0x73746F70, 0xFFFFFFFF)⟩, by simp [opcodeTable], rfl, by rfl⟩

theorem RowMatch.frameData (index : BitVec 32) : RowMatch.Statement (.frameData index) :=
  ⟨⟨"FRAME_DATA", .pfx32, some (0x00000000, 0x00000000)⟩, by simp [opcodeTable], rfl, by simp [TableRow.accepts, encode, Code.space, Code.bits]⟩

theorem RowMatch.ingestDataV : RowMatch.Statement (.ingestDataV) :=
  ⟨⟨"INGEST_DATA_V", .isel, some (0b00, 0b11)⟩, by simp [opcodeTable], rfl, by rfl⟩

theorem RowMatch.ingestStopV : RowMatch.Statement (.ingestStopV) :=
  ⟨⟨"INGEST_STOP_V", .isel, some (0b01, 0b11)⟩, by simp [opcodeTable], rfl, by rfl⟩

theorem RowMatch.ingestDataD : RowMatch.Statement (.ingestDataD) :=
  ⟨⟨"INGEST_DATA_D", .isel, some (0b10, 0b11)⟩, by simp [opcodeTable], rfl, by rfl⟩

theorem RowMatch.ingestStopD : RowMatch.Statement (.ingestStopD) :=
  ⟨⟨"INGEST_STOP_D", .isel, some (0b11, 0b11)⟩, by simp [opcodeTable], rfl, by rfl⟩

theorem RowMatch.trailerWrite (L : Nat) (crc : Half) : RowMatch.Statement (.trailerWrite L crc) :=
  ⟨⟨"TRAILER_WRITE", .internal, none⟩, by simp [opcodeTable], rfl, by rfl⟩

theorem RowMatch.crcSeed : RowMatch.Statement (.crcSeed) :=
  ⟨⟨"CRC_SEED", .crcop, some (0b00, 0b11)⟩, by simp [opcodeTable], rfl, by rfl⟩

theorem RowMatch.crcByte (d : Byte) : RowMatch.Statement (.crcByte d) :=
  ⟨⟨"CRC_BYTE", .crcop, some (0b01, 0b11)⟩, by simp [opcodeTable], rfl, by simp [TableRow.accepts, encode, Code.space, Code.bits]⟩

theorem RowMatch.crcRange (L : Nat) : RowMatch.Statement (.crcRange L) :=
  ⟨⟨"CRC_RANGE", .crcop, some (0b10, 0b11)⟩, by simp [opcodeTable], rfl, by simp [TableRow.accepts, encode, Code.space, Code.bits]⟩

theorem RowMatch.crcBit : RowMatch.Statement (.crcBit) :=
  ⟨⟨"CRC_BIT", .internal, none⟩, by simp [opcodeTable], rfl, by rfl⟩

theorem RowMatch.reset : RowMatch.Statement (.reset) :=
  ⟨⟨"RESET", .ctrl, some (0b1, 0b1)⟩, by simp [opcodeTable], rfl, by rfl⟩

end Sys2Proof.Laws
end

