-- ==== Sys2Proof/Tests/Slice0.lean ====
section
/-! SUPPORT. The model's own tests: ill-formed operations that the check refuses, selectors written out from
spec/30_encoding.md, the vectors of spec/95_test_vectors.md (each test names its section), and, for every
statement with hypotheses, a state and operands that meet them. -/

namespace Sys2Proof.Tests

open Sys2Proof Sys2Proof.Machine

/-! ### Well-formedness: each check refuses an ill-formed operation -/

/-- A frame with the sentinel's prefix is no data frame (rule R74). -/
theorem test_wf_frameData : (Instr.frameData 0x73746F70#32).wellFormed Config.seedcli = false := by decide

/-- A trailer must lie inside ACC (rule R126); at `L + 2 = C` it does. -/
theorem test_wf_trailerWrite :
    (Instr.trailerWrite 65535 0).wellFormed Config.seedcli = false ∧
      (Instr.trailerWrite 65534 0).wellFormed Config.seedcli = true := by decide

/-- CRC_RANGE has `L <= C` (rule R104). -/
theorem test_wf_crcRange :
    (Instr.crcRange 65537).wellFormed Config.seedcli = false ∧
      (Instr.crcRange 65536).wellFormed Config.seedcli = true := by decide

/-! ### Decoding: the selectors of spec/30_encoding.md, written out -/

/-- Rule R77, one value of each row, `DSEL = SESSION[1:0] || TOOLONG || SENT` (95_test_vectors.md section 4). -/
theorem test_decode_dsel :
    decode (.dsel 0b0000#4) = .ok (.dispatchCmd false) ∧ decode (.dsel 0b0001#4) = .ok (.dispatchCmd true) ∧
    decode (.dsel 0b0010#4) = .ok (.dispatchCmdToolong false) ∧ decode (.dsel 0b0100#4) = .ok .dispatchSvData ∧
    decode (.dsel 0b0101#4) = .ok .dispatchSvStop ∧ decode (.dsel 0b0110#4) = .ok (.dispatchSvToolong false) ∧
    decode (.dsel 0b1000#4) = .ok .dispatchSdData ∧ decode (.dsel 0b1001#4) = .ok .dispatchSdStop ∧
    decode (.dsel 0b1010#4) = .ok (.dispatchSdToolong false) ∧
    decode (.dsel 0b1101#4) = .ok (.dispatchReserved false true) := by decide

/-- Rules R73 and R74: the sentinel's four bytes, a data frame with index 5, and a prefix in capitals. -/
theorem test_decode_pfx32 :
    decode (.pfx32 0b01110011_01110100_01101111_01110000#32) = .ok .frameStop ∧
    decode (.pfx32 0x00000005#32) = .ok (.frameData 5#32) ∧
    decode (.pfx32 0x53544F50#32) = .ok (.frameData 0x53544F50#32) ∧
    pfx32 [0x73#8, 0x74#8, 0x6F#8, 0x70#8] = 0x73746F70#32 := by decide

/-- Rule R78. -/
theorem test_decode_isel :
    decode (.isel 0b00#2) = .ok .ingestDataV ∧ decode (.isel 0b01#2) = .ok .ingestStopV ∧
    decode (.isel 0b10#2) = .ok .ingestDataD ∧ decode (.isel 0b11#2) = .ok .ingestStopD := by decide

/-- Rule R79, with the reserved value rejected by name. -/
theorem test_decode_crcop :
    decode (.crcop 0b00#2 0) = .ok .crcSeed ∧ decode (.crcop 0b01#2 0x31) = .ok (.crcByte 0x31#8) ∧
    decode (.crcop 0b10#2 9) = .ok (.crcRange 9) ∧ decode (.crcop 0b11#2 0) = .error .crcopReserved ∧
    decode (.crcop 0b00#2 1) = .error .operandWithoutUse ∧
    decode (.crcop 0b01#2 256) = .error .operandNotByte := by decide

/-- Rule R89, and the internal steps without a selector (rules R102 and R126). -/
theorem test_decode_ctrl_and_internal :
    decode (.ctrl 1#1) = .ok .reset ∧ decode (.ctrl 0#1) = .error .ctrlSelectsNothing ∧
    decode (.internal .crcBit) = .ok .crcBit ∧
    decode (.internal (.trailerWrite 60 0x0B46#16)) = .ok (.trailerWrite 60 0x0B46#16) := by decide

/-- The table's words, by width (log entry 10). -/
theorem test_decodeTableWord :
    decodeTableWord 8 0b0101 = some .dispatchSvStop ∧ decodeTableWord 32 0x73746F70 = some .frameStop ∧
    decodeTableWord 2 0b10 = some .ingestDataD ∧ decodeTableWord 1 1 = some .reset ∧
    decodeTableWord 1 0 = none ∧ decodeTableWord 8 16 = none := by decide

/-! ### The states of the tests -/

/-- The field of the next state, if there is one. -/
def field {α : Type} (f : State → α) (o : Host.Outcome State Fault Refusal) : Option α :=
  match o with
  | .next s => some (f s)
  | .fault _ => none
  | .refused _ => none

/-- The default sizes, with values for the open parameters; COMMIT_LEN_INCLUDES_TRAILER as in 95_test_vectors.md. -/
def sized : Config := ⟨64, 4, 65536, 4096, 0x1000, true, [0x3E#8], [0x0A#8], [0x64#8]⟩

/-- `pat(k)` of 95_test_vectors.md. -/
def pat (k : Nat) : Bytes := (List.range 60).map fun j => BitVec.ofNat 8 (k * 60 + j)

/-- ACC with a byte string from offset 0 on. -/
def holding (v : Bytes) : Memory := (List.range v.length).zip v

/-- A block in a session state with one chunk offered. -/
def offered (session : BitVec 2) (b : Bytes) : State :=
  { powerUp sized with session := session, chunkIn := [b] }

/-- A sentinel frame. -/
def stopChunk : Bytes := sentinel ++ zeros 60

/-- A data frame with index 0. -/
def dataChunk (v : Bytes) : Bytes := [0#8, 0#8, 0#8, 0#8] ++ v

/-! ### The checksum engine (95_test_vectors.md sections 2 and 3) -/

theorem test_crcSeed : field State.crc (exec .crcSeed { powerUp sized with crc := 0x1234#16 }) = some 0xFFFF#16 := by
  decide +kernel

theorem test_crcBit :
    field State.crc (exec .crcBit { powerUp sized with crc := 0xFFFF#16 }) = some 0xFBF7#16 ∧
    field State.crc (exec .crcBit { powerUp sized with crc := 0x8000#16 }) = some 0x4000#16 := by decide +kernel

theorem test_crcByte :
    field State.crc (exec (.crcByte 0x56#8) { powerUp sized with crc := 0x1234#16 }) = some 0x4006#16 ∧
    field State.crc (exec (.crcByte 0x73#8) { powerUp sized with crc := 0xFFFF#16 }) = some 0x4E9B#16 := by
  decide +kernel

theorem test_crcRange_check :
    crc16 [0x31#8, 0x32#8, 0x33#8, 0x34#8, 0x35#8, 0x36#8, 0x37#8, 0x38#8, 0x39#8] = 0x6F91#16 ∧
    crc16 [0xFF#8, 0xFF#8] = 0x0000#16 ∧ crc16 (pat 0) = 0x0B46#16 := by decide +kernel

/-- A range with a byte without a value is ACCESS_RANGE (rule R51). -/
theorem test_crcRange :
    field State.crc (exec (.crcRange 60) { powerUp sized with acc := holding (pat 0) }) = some 0x0B46#16 ∧
    field State.fault (exec (.crcRange 61) { powerUp sized with acc := holding (pat 0) }) =
      some (some .accessRange) := by decide +kernel

/-! ### The sequencer (95_test_vectors.md section 5) -/

theorem test_ingestDataV :
    field (fun s => (s.curV, s.res, memGet s.acc 120, memGet s.acc 179, memGet s.acc 180))
        (exec .ingestDataV { powerUp sized with curV := 2, scratch := dataChunk (pat 2) }) =
      some (3#16, some .contin, some 0x78#8, some 0xB3#8, none) := by decide +kernel

theorem test_ingestDataV_overflow :
    field (fun s => (s.curV, s.res, s.acc)) (exec .ingestDataV { powerUp sized with curV := 1092 }) =
      some (0#16, some .overflow, []) := by decide +kernel

theorem test_ingestDataD :
    field (fun s => (s.curD, s.curV, s.res)) (exec .ingestDataD { powerUp sized with curD := 1091 }) =
      some (1092#16, 0#16, some .contin) := by decide +kernel

theorem test_ingestStopV :
    field (fun s => (s.curV, s.res, memGet s.acc 60, memGet s.acc 61))
        (exec .ingestStopV { powerUp sized with curV := 1, acc := holding (pat 0) }) =
      some (0#16, some (.complete 0x0B46#16), some 0x46#8, some 0x0B#8) := by decide +kernel

theorem test_ingestStopD :
    field (fun s => (s.curD, s.res, memGet s.acc 0, memGet s.acc 1, s.trace))
        (exec .ingestStopD { powerUp sized with commitIn := [.fail] }) =
      some (0#16, some (.commitFailed 0xFFFF#16), some 0xFF#8, some 0xFF#8,
        [.commitRequest 2 0x1000, .commitResponse .fail]) := by decide +kernel

theorem test_trailerWrite :
    field (fun s => (s.acc, s.crc)) (exec (.trailerWrite 3 0xF671#16) (powerUp sized)) =
      some ([(3, 0x71#8), (4, 0xF6#8)], 0#16) := by decide +kernel

theorem test_trailerWrite_edge :
    field State.fault (exec (.trailerWrite 65535 0xF671#16) (powerUp sized)) = some (some .accessRange) := by
  decide +kernel

/-- The configurations of section 5 and those that rule R8 rejects: `C = 121`, `P = 8`, `F = 4`. -/
theorem test_admitted :
    admitted sized = true ∧ maxFrames sized = 1092 ∧ maxFrames { sized with C := 130 } = 2 ∧
    maxFrames { sized with C := 120 } = 1 ∧ admitted { sized with C := 120 } = true ∧
    admitted { sized with C := 121 } = false ∧ admitted { sized with P := 8 } = false ∧
    admitted { sized with F := 4 } = false := by decide +kernel

/-! ### Frame classification (95_test_vectors.md section 4) -/

theorem test_selector :
    dselOf stopChunk (offered 0b01#2 []) = 0b0101#4 ∧
    dselOf [0x73#8, 0x74#8, 0x6F#8, 0x70#8, 0x58#8] (offered 0b10#2 []) = 0b1001#4 ∧
    dselOf [0x53#8, 0x74#8, 0x6F#8, 0x70#8] (offered 0b01#2 []) = 0b0100#4 ∧
    dselOf [0x73#8, 0x74#8, 0x6F#8] (offered 0b01#2 []) = 0b0100#4 ∧ dselOf [] (offered 0b00#2 []) = 0b0000#4 ∧
    dselOf (sentinel ++ zeros 61) (offered 0b01#2 []) = 0b0110#4 := by decide +kernel

/-! ### The dispatcher (95_test_vectors.md section 6) -/

theorem test_dispatchCmd :
    field (fun s => (s.session, s.trace, s.scratch == zeros 64))
        (exec (.dispatchCmd false)
          { offered 0b00#2 [0x66#8] with parseIn := [⟨⟨.rdy, none⟩, 2#2⟩] }) =
      some (0b10#2, [.chunkIn [0x66#8], .audioPause, .parseRequest [0x66#8] 1,
        .parseResponse ⟨⟨.rdy, none⟩, 2#2⟩, .replyOut ⟨.rdy, none⟩, .audioResume], true) := by decide +kernel

theorem test_dispatchCmd_code3 :
    field (fun s => (s.fault, s.trace))
        (exec (.dispatchCmd false) { offered 0b00#2 [] with parseIn := [⟨⟨.ok, none⟩, 3#2⟩] }) =
      some (some .parserContract,
        [.chunkIn [], .audioPause, .parseRequest [] 0, .parseResponse ⟨⟨.ok, none⟩, 3#2⟩]) := by decide +kernel

theorem test_dispatchCmdToolong :
    field (fun s => s.trace.drop 1) (exec (.dispatchCmdToolong false) (offered 0b00#2 (zeros 65))) =
      some [.audioPause, .replyOut ⟨.err, some tooLongText⟩, .errEvt (.chunkTooLong 0b00#2 65 0), .audioResume] := by
  decide +kernel

theorem test_dispatchSvData :
    field (fun s => (s.session, s.curV, s.trace.drop 1, memGet s.acc 0, memGet s.acc 1))
        (exec .dispatchSvData (offered 0b01#2 [0x72#8, 0x65#8, 0x73#8, 0x65#8, 0x74#8])) =
      some (0b01#2, 1#16, [.audioPause, .replyOut ⟨.ok, none⟩, .audioResume], some 0x74#8, some 0#8) := by
  decide +kernel

theorem test_dispatchSvData_overflow :
    field (fun s => (s.session, s.curV, s.trace.drop 1, s.acc))
        (exec .dispatchSvData { offered 0b01#2 (dataChunk (pat 4)) with curV := 1092 }) =
      some (0b00#2, 0#16, [.audioPause, .errEvt (.transferOverflow .volatile 1092), .audioResume], []) := by
  decide +kernel

theorem test_dispatchSvStop :
    field (fun s => (s.session, s.curV, s.trace.drop 1))
        (exec .dispatchSvStop { offered 0b01#2 stopChunk with curV := 1, acc := holding (pat 0) }) =
      some (0b00#2, 0#16, [.audioPause,
        .replyOut ⟨.fnsh, some (fnshText ++ [0x32#8, 0x38#8, 0x38#8, 0x36#8])⟩, .audioResume]) := by
  decide +kernel

theorem test_dispatchSvToolong :
    field (fun s => (s.session, s.curV, s.trace.drop 1))
        (exec (.dispatchSvToolong false) { offered 0b01#2 (zeros 128) with curV := 5 }) =
      some (0b00#2, 0#16, [.audioPause, .errEvt (.chunkTooLong 0b01#2 128 5), .audioResume]) := by decide +kernel

theorem test_dispatchSdData :
    field (fun s => (s.session, s.curD, s.curV, s.trace.drop 1))
        (exec .dispatchSdData { offered 0b10#2 (dataChunk (pat 3)) with curD := 3 }) =
      some (0b10#2, 4#16, 0#16, [.audioPause, .replyOut ⟨.ok, none⟩, .audioResume]) := by decide +kernel

theorem test_dispatchSdStop :
    field (fun s => (s.session, s.curD, s.trace.drop 1))
        (exec .dispatchSdStop
          { offered 0b10#2 stopChunk with curD := 1, acc := holding (pat 0), commitIn := [.ok] }) =
      some (0b00#2, 0#16, [.audioPause, .commitRequest 62 0x1000, .commitResponse .ok,
        .replyOut ⟨.fnsh, some (fnshText ++ [0x32#8, 0x38#8, 0x38#8, 0x36#8])⟩, .audioResume]) := by
  decide +kernel

theorem test_dispatchSdStop_fails :
    field (fun s => (s.session, s.trace.drop 1))
        (exec .dispatchSdStop
          { offered 0b10#2 stopChunk with
            curD := 1, acc := holding (List.replicate 60 0xAA#8), commitIn := [.fail] }) =
      some (0b00#2, [.audioPause, .commitRequest 62 0x1000, .commitResponse .fail,
        .errEvt (.commitFailure 0xFBC2#16 62), .audioResume]) := by decide +kernel

theorem test_dispatchSdToolong :
    field (fun s => (s.session, s.trace.drop 1)) (exec (.dispatchSdToolong false) (offered 0b10#2 (zeros 65))) =
      some (0b00#2, [.audioPause, .errEvt (.chunkTooLong 0b10#2 65 0), .audioResume]) := by decide +kernel

theorem test_dispatchReserved :
    field (fun s => (s.fault, s.trace)) (exec (.dispatchReserved false false) (offered 0b11#2 [])) =
      some (some .reservedState, [.chunkIn [], .audioPause]) := by decide +kernel

theorem test_frameStop :
    field (fun s => (s.session, memGet s.acc 0, memGet s.acc 1)) (exec .frameStop (offered 0b01#2 stopChunk)) =
      some (0b00#2, some 0xFF#8, some 0xFF#8) := by decide +kernel

theorem test_frameData :
    field (fun s => (s.session, s.curD)) (exec (.frameData 7#32) (offered 0b10#2 ([0#8, 0#8, 0#8, 7#8] ++ pat 0))) =
      some (0b10#2, 1#16) := by decide +kernel

/-! ### Replies (95_test_vectors.md section 7) -/

theorem test_dec :
    dec 0#16 = [0x30#8] ∧ dec 10#16 = [0x31#8, 0x30#8] ∧ dec 255#16 = [0x32#8, 0x35#8, 0x35#8] ∧
    dec 65535#16 = [0x36#8, 0x35#8, 0x35#8, 0x33#8, 0x35#8] := by decide +kernel

theorem test_replyLine :
    replyLine sized ⟨.ok, none⟩ = [0x3E#8, 0x20#8, 0x4F#8, 0x4B#8, 0x0A#8] ∧
    replyLine sized ⟨.err, some [0x78#8]⟩ =
      [0x3E#8, 0x20#8, 0x45#8, 0x52#8, 0x52#8, 0x3A#8, 0x20#8, 0x78#8, 0x0A#8] := by decide +kernel

/-! ### Reset (95_test_vectors.md section 8) -/

theorem test_reset :
    field (fun s => (s.session, s.curV, s.acc, s.trace))
        (exec .reset { powerUp sized with session := 0b01#2, curV := 7, acc := [(0, 9#8)] }) =
      some (0b00#2, 0#16, [(0, 9#8)], [.rst]) := by decide +kernel

/-- P6, steps 7 and 8: RST while the commit stage has not answered. -/
theorem test_reset_during_commit :
    field (fun s => (s.session, s.phase, s.trace.drop 3))
        (match step { offered 0b10#2 stopChunk with curD := 1, acc := holding (zeros 60) } with
         | .next w => step (deliver .rst w)
         | o => o) =
      some (0b00#2, .between, [.rst, .audioResume]) := by decide +kernel

/-! ### Steps -/

/-- P2: an empty transfer, read back through BUF_RD. -/
theorem test_step_bufRd :
    field (fun s => (s.session, (s.bufRd 0 2).toOption, (s.bufRd 1 2).toOption))
        (step (offered 0b01#2 stopChunk)) = some (0b00#2, some [0xFF#8, 0xFF#8], none) := by decide +kernel

/-- The bits of a table row, presented after reset, run at the next step: the sentinel in a volatile transfer. -/
theorem test_withFetchWord_dsel :
    field (fun s => (s.session, memGet s.acc 0)) (step (State.reset.withFetchWord 8 0b0101)) =
      some (0b00#2, some 0xFF#8) := by decide +kernel

theorem test_withFetchWord_pfx32 :
    field (fun s => (s.session, s.curV)) (step (State.reset.withFetchWord 32 0x00000005)) =
      some (0b01#2, 1#16) := by decide +kernel

theorem test_withFetchWord_reset :
    field State.trace (step (State.reset.withFetchWord 1 1)) = some [.rst] := by decide +kernel


/-! ### Witnesses: for every statement with hypotheses, a state and operands that meet them, at the boundaries of
its clauses. They use a small block: `F = 6`, `P = 4`, `C = 8`, so `N = 2`, `MAXF = 3` and `MAXF * N + 2 = C`. -/

/-- The small configuration. -/
def small : Config := ⟨6, 4, 8, 4, 0x100, false, [0x3E#8], [0x0A#8], [0x64#8]⟩

theorem small_admitted : admitted small = true := by decide

/-- The small block, idle. -/
def idle : State := powerUp small

/-- The payload of a full transfer: MAXF frames. -/
def full : Bytes := [1#8, 2#8, 3#8, 4#8, 5#8, 6#8]

/-- The small block at the end of a full transfer to a destination, with a chunk offered. -/
def atEnd (d : Dest) (b : Bytes) : State :=
  setCursor d 3#16 { idle with session := streaming d, acc := holding full, chunkIn := [b] }

/-- The small block in a session state with a chunk offered. -/
def asks (session : BitVec 2) (b : Bytes) : State := { idle with session := session, chunkIn := [b] }

/-- A sentinel frame of the small block. -/
def smallStop : Bytes := sentinel ++ [0#8, 0#8]

/-- A data frame of the small block. -/
def smallFrame : Bytes := [0#8, 0#8, 0#8, 1#8, 7#8, 8#8]

theorem witness_CrcSeedLoadsTheSeed : Live idle := ⟨small_admitted, rfl⟩

theorem witness_CrcBitShiftsAndXors : Live { idle with crc := 1#16 } := ⟨small_admitted, rfl⟩

theorem witness_CrcByteRunsEightBits : Live { idle with crc := 0xFFFF#16 } := ⟨small_admitted, rfl⟩

/-- The whole of ACC, `L = C`. -/
theorem witness_CrcRangeFoldsTheBytes :
    Live { idle with acc := holding (full ++ [7#8, 8#8]) } ∧ (full ++ [7#8, 8#8]).length ≤ small.C ∧
      AccPrefix (holding (full ++ [7#8, 8#8])) (full ++ [7#8, 8#8]) := ⟨⟨small_admitted, rfl⟩, by decide, rfl⟩

/-- One byte too many, and one byte without a value. -/
theorem witness_CrcRangeOutsideIsAccessRange :
    Live idle ∧ idle.cfg.C < 9 ∧ ∃ a, a < 1 ∧ memGet idle.acc a = none :=
  ⟨⟨small_admitted, rfl⟩, by decide, 0, by decide, rfl⟩

theorem witness_CrcRangeDependsOnlyOnTheRange :
    Live (atEnd .volatile []) ∧ Live { idle with acc := holding (full ++ [9#8]), crc := 5#16 } ∧ 6 ≤ small.C ∧
      ∀ a, a < 6 → (memGet (holding full) a).isSome = true ∧
        memGet (holding full) a = memGet (holding (full ++ [9#8])) a :=
  ⟨⟨small_admitted, rfl⟩, ⟨small_admitted, rfl⟩, by decide, by decide⟩

/-- The last two bytes of ACC, one byte beyond, and a byte without a value. -/
theorem witness_BufferAccessOrAccessRange :
    6 + [7#8, 8#8].length ≤ idle.cfg.C ∧
      (∀ i, i < 6 → memGet (holding full) (0 + i) = full[i]?) ∧ idle.cfg.C < 7 + [7#8, 8#8].length ∧
      ∃ i, i < 1 ∧ memGet idle.acc (7 + i) = none := ⟨by decide, by decide, by decide, 0, by decide, rfl⟩

theorem witness_TrailerWriteIsLittleEndian : Live idle ∧ 6 + 2 ≤ idle.cfg.C ∧ idle.cfg.C < 7 + 2 :=
  ⟨⟨small_admitted, rfl⟩, by decide, by decide⟩

/-- The last frame that fits and the first that does not. -/
theorem witness_IngestDataAppendsOrOverflows :
    ∀ d : Dest, Live (setCursor d 2#16 idle) ∧ (setCursor d 2#16 idle).scratch.length = small.F ∧
      nextOffset small (cursor d (setCursor d 2#16 idle)) < small.C ∧ Live (setCursor d 3#16 idle) ∧
      small.C ≤ nextOffset small (cursor d (setCursor d 3#16 idle)) := fun d => by
  cases d <;> exact ⟨⟨small_admitted, rfl⟩, by decide, by decide, ⟨small_admitted, rfl⟩, by decide⟩

theorem witness_IngestStopVClosesTheTransfer :
    Live (atEnd .volatile []) ∧ full.length = frameOffset small (atEnd .volatile []).curV ∧
      full.length + 2 ≤ small.C ∧ AccPrefix (atEnd .volatile []).acc full :=
  ⟨⟨small_admitted, rfl⟩, by decide, by decide, rfl⟩

theorem witness_IngestStopDRequestsACommit :
    Live { atEnd .durable [] with commitIn := [.fail] } ∧ full.length = frameOffset small (atEnd .durable []).curD ∧
      full.length + 2 ≤ small.C ∧ AccPrefix (atEnd .durable []).acc full :=
  ⟨⟨small_admitted, rfl⟩, by decide, by decide, rfl⟩

theorem witness_TransferBounds : admitted small = true ∧ ovf small 2#16 = false ∧ ovf small 3#16 = true := by
  decide

theorem ready_asks (session : BitVec 2) (b : Bytes) : Ready (asks session b) b [] := ⟨⟨small_admitted, rfl⟩, rfl, rfl⟩

theorem ready_atEnd (d : Dest) (b : Bytes) : Ready (atEnd d b) b [] := by
  cases d <;> exact ⟨⟨small_admitted, rfl⟩, rfl, rfl⟩

theorem witness_DataFrameIsAppendedOrOverflows :
    ∀ d : Dest, Ready (setCursor d 2#16 (asks (streaming d) smallFrame)) smallFrame [] ∧
      (asks (streaming d) smallFrame).scratch = zeros small.F ∧ smallFrame.length ≤ small.F ∧
      nextOffset small (cursor d (setCursor d 2#16 (asks (streaming d) smallFrame))) < small.C ∧
      Ready (atEnd d smallFrame) smallFrame [] ∧ small.C ≤ nextOffset small (cursor d (atEnd d smallFrame)) :=
  fun d => by
    cases d <;>
      exact ⟨⟨⟨small_admitted, rfl⟩, rfl, rfl⟩, rfl, by decide, by decide, ⟨⟨small_admitted, rfl⟩, rfl, rfl⟩, by decide⟩

theorem witness_VolatileStopReplies :
    Ready (atEnd .volatile smallStop) smallStop [] ∧
      full.length = frameOffset small (atEnd .volatile smallStop).curV ∧ full.length + 2 ≤ small.C ∧
      AccPrefix (atEnd .volatile smallStop).acc full := ⟨ready_atEnd _ _, by decide, by decide, rfl⟩

theorem witness_DurableStopCommits :
    ∀ a : CommitAnswer, Ready { atEnd .durable smallStop with commitIn := [a] } smallStop [] ∧
      full.length = frameOffset small (atEnd .durable smallStop).curD ∧ full.length + 2 ≤ small.C ∧
      AccPrefix (atEnd .durable smallStop).acc full :=
  fun _ => ⟨⟨⟨small_admitted, rfl⟩, rfl, rfl⟩, by decide, by decide, rfl⟩

theorem witness_DurableStopWaitsForTheCommit :
    Ready (atEnd .durable smallStop) smallStop [] ∧ (atEnd .durable smallStop).scratch = zeros small.F ∧
      smallStop.length ≤ small.F ∧ full.length = frameOffset small (atEnd .durable smallStop).curD ∧
      full.length + 2 ≤ small.C ∧ AccPrefix (atEnd .durable smallStop).acc full ∧
      (atEnd .durable smallStop).commitIn = [] := ⟨ready_atEnd _ _, rfl, by decide, by decide, by decide, rfl, rfl⟩

/-- A line as long as a frame, with an answer of every transition code: code 3 breaks the contract. -/
theorem witness_CommandFollowsTheParser :
    ∀ tr : BitVec 2, Ready { asks 0b00#2 smallFrame with parseIn := [⟨⟨.ok, none⟩, tr⟩] } smallFrame [] ∧
      (asks 0b00#2 smallFrame).scratch = zeros small.F ∧ smallFrame.length ≤ small.F :=
  fun _ => ⟨⟨⟨small_admitted, rfl⟩, rfl, rfl⟩, rfl, by decide⟩

theorem witness_CommandWaitsForTheParser :
    Ready (asks 0b00#2 []) [] [] ∧ (asks 0b00#2 []).scratch = zeros small.F ∧ ([] : Bytes).length ≤ small.F ∧
      (asks 0b00#2 []).parseIn = [] := ⟨ready_asks _ _, rfl, by decide, rfl⟩

theorem witness_OverLengthCommandIsRejected : Ready (asks 0b00#2 (zeros 7)) (zeros 7) [] := ready_asks _ _

theorem witness_OverLengthFrameAbortsTheTransfer : ∀ d : Dest, Ready (atEnd d (zeros 7)) (zeros 7) [] :=
  fun d => ready_atEnd d _

theorem witness_ReservedSessionFaults :
    Ready (asks 0b11#2 smallFrame) smallFrame [] ∧ Ready (asks 0b11#2 (zeros 7)) (zeros 7) [] ∧
      (asks 0b11#2 smallFrame).scratch = zeros small.F := ⟨ready_asks _ _, ready_asks _ _, rfl⟩

theorem witness_FrameClassSelectsTheOperation : (asks 0b01#2 smallFrame).chunkIn = smallFrame :: [] := rfl

theorem witness_FrameClassesCompleteInATransfer :
    (∀ d : Dest, Ready (asks (streaming d) smallFrame) smallFrame [] ∧ smallFrame.length ≤ small.F ∧
      (asks (streaming d) smallFrame).session = streaming d ∧
      (asks (streaming d) smallFrame).scratch = zeros small.F ∧
      nextOffset small (cursor d (asks (streaming d) smallFrame)) < small.C) ∧
    Ready (atEnd .volatile smallStop) smallStop [] ∧ smallStop.length ≤ small.F ∧
      (atEnd .volatile smallStop).session = 0b01#2 ∧
      full.length = frameOffset small (atEnd .volatile smallStop).curV ∧ full.length + 2 ≤ small.C ∧
      AccPrefix (atEnd .volatile smallStop).acc full :=
  ⟨fun d => ⟨ready_asks _ _, by decide, rfl, rfl, by cases d <;> decide⟩, ready_atEnd _ _, by decide, rfl, by decide,
    by decide, rfl⟩

theorem witness_BusyBlockAcceptsNoChunk :
    Live { asks 0b00#2 smallFrame with phase := .waitParse } ∧
      ({ asks 0b00#2 smallFrame with phase := .waitParse } : State).phase ≠ .between ∧ Live idle ∧
      idle.chunkIn = [] := ⟨⟨small_admitted, rfl⟩, by decide, ⟨small_admitted, rfl⟩, rfl⟩

theorem witness_ResetTakesTheResetValues :
    Live idle ∧ Live { atEnd .durable [] with phase := .waitCommit 0#16 6 (holding full) } :=
  ⟨⟨small_admitted, rfl⟩, ⟨small_admitted, rfl⟩⟩

theorem witness_StepRunsTheSelectedOperation :
    Ready (atEnd .volatile smallStop) smallStop [] ∧ (atEnd .volatile smallStop).rstIn = false ∧
      decode (.dsel (dselOf smallStop (atEnd .volatile smallStop))) = .ok .dispatchSvStop :=
  ⟨ready_atEnd _ _, rfl, by decide⟩

theorem witness_SelectorIsSessionTooLongSent : idle.scratch = zeros idle.cfg.F := rfl

theorem witness_StepTakesResetBeforeAChunk :
    Live { asks 0b01#2 smallStop with rstIn := true } ∧ (asks 0b01#2 smallStop).phase = .between :=
  ⟨⟨small_admitted, rfl⟩, rfl⟩

theorem witness_StepWaitsForAnInput :
    Live idle ∧ idle.rstIn = false ∧ idle.phase = .between ∧ idle.chunkIn = [] ∧
      Live { idle with phase := .waitParse } ∧ idle.parseIn = [] ∧
      Live { idle with phase := .waitCommit 0#16 0 [] } ∧ idle.commitIn = [] :=
  ⟨⟨small_admitted, rfl⟩, rfl, rfl, rfl, ⟨small_admitted, rfl⟩, rfl, ⟨small_admitted, rfl⟩, rfl⟩

theorem witness_LateParserAnswerIsTheSame :
    Ready (asks 0b00#2 smallFrame) smallFrame [] ∧ (asks 0b00#2 smallFrame).rstIn = false ∧
      (asks 0b00#2 smallFrame).parseIn = [] := ⟨ready_asks _ _, rfl, rfl⟩

theorem witness_LateCommitAnswerIsTheSame :
    Ready (atEnd .durable smallStop) smallStop [] ∧ (atEnd .durable smallStop).rstIn = false ∧
      (atEnd .durable smallStop).commitIn = [] ∧
      full.length = frameOffset small (atEnd .durable smallStop).curD ∧ full.length + 2 ≤ small.C ∧
      AccPrefix (atEnd .durable smallStop).acc full := ⟨ready_atEnd _ _, rfl, rfl, by decide, by decide, rfl⟩

theorem witness_ResetAbandonsAWait :
    Live { idle with phase := .waitParse, rstIn := true } ∧ idle.parseIn = [] ∧
      Live { atEnd .durable [] with phase := .waitCommit 0#16 6 [], rstIn := true } ∧ idle.commitIn = [] :=
  ⟨⟨small_admitted, rfl⟩, rfl, ⟨small_admitted, rfl⟩, rfl⟩

theorem witness_ResetWithAnAnswerIsEither :
    Live { idle with phase := .waitParse, rstIn := true, parseIn := [⟨⟨.ok, none⟩, 0#2⟩] } ∧
      Live { atEnd .durable [] with
        phase := .waitCommit 0#16 6 (holding full), rstIn := true, commitIn := [.fail], curD := 0#16 } :=
  ⟨⟨small_admitted, rfl⟩, ⟨small_admitted, rfl⟩⟩

theorem witness_FaultMarkStopsEverything :
    admitted small = true ∧ ({ idle with fault := some .reservedState } : State).fault = some .reservedState :=
  ⟨small_admitted, rfl⟩

/-- `C = 7` leaves one byte for the trailer of a 6-byte payload (rule R8 (c)). -/
theorem witness_BadConfigurationIsRefused :
    let c := ({ idle with cfg := { small with C := 7 } } : State).cfg
    ¬(c.P = 4 ∧ c.P < c.F ∧ (c.C - 1) % (c.F - c.P) ≠ 0 ∧ (c.C - 1) / (c.F - c.P) < 2 ^ 16 ∧ c.F < 2 ^ 16) := by
  decide

theorem witness_PowerUpMeetsTheInvariant : admitted small = true := small_admitted

/-- The invariant holds at the end of a full transfer to either destination, whatever chunk is offered. -/
theorem inv_atEnd (d : Dest) (b : Bytes) : BlockInv (atEnd d b) := by
  have hsome : ∀ a, a < 6 → (memGet (holding full) a).isSome = true := by decide
  have hwf : Memory.wf (holding full) = true := by decide
  have hin : ∀ cell ∈ holding full, cell.1 < 8 := by decide
  have h6 : frameOffset small 3#16 < 8 := by decide
  have h0 : frameOffset small 0#16 < 8 := by decide
  have hnone : ∀ a, a < frameOffset small 0#16 → (memGet (holding full) a).isSome = true := fun a ha => by
    simp at ha
  have hvol : streaming .volatile ≠ 0b11#2 := by decide
  have hdur : streaming .durable ≠ 0b11#2 := by decide
  cases d
  · exact ⟨small_admitted, hwf, hin, rfl, Nat.zero_le 6, hvol, fun h => absurd rfl h, fun _ => rfl, h6, h0, hsome, hnone,
      fun _ _ => ⟨rfl, rfl⟩, fun h => (by cases h), fun _ _ _ h => (by cases h)⟩
  · exact ⟨small_admitted, hwf, hin, rfl, Nat.zero_le 6, hdur, fun _ => rfl, fun h => absurd rfl h, h0, h6, hnone, hsome,
      fun _ _ => ⟨rfl, rfl⟩, fun h => (by cases h), fun _ _ _ h => (by cases h)⟩

theorem live_atEnd (d : Dest) (b : Bytes) : Live (atEnd d b) := (ready_atEnd d b).live

theorem witness_StepAndInputKeepTheInvariant :
    BlockInv (atEnd .durable smallStop) ∧ ∃ t, step (atEnd .durable smallStop) = .next t :=
  ⟨inv_atEnd _ _, (step_total (live_atEnd _ _)).imp fun _ h => h.1⟩

theorem witness_InvariantSaysI1ToI6 :
    BlockInv (atEnd .volatile []) ∧ (atEnd .volatile []).fault = none ∧ (atEnd .volatile []).phase = .between :=
  ⟨inv_atEnd _ _, rfl, rfl⟩

theorem witness_StepNeverFaults :
    BlockInv (atEnd .volatile smallFrame) ∧ (atEnd .volatile smallFrame).fault = none ∧
      ∀ a ∈ (atEnd .volatile smallFrame).parseIn, a.transition ≠ 3#2 :=
  ⟨inv_atEnd _ _, rfl, fun _ h => (by cases h)⟩

theorem witness_ReachableFaultsAreTheParsers : Reachable (deliver (.chunk smallFrame) idle) :=
  .input _ _ (.boot small (by decide))

theorem witness_SessionTransitions :
    BlockInv (atEnd .volatile smallFrame) ∧ ∃ t, step (atEnd .volatile smallFrame) = .next t :=
  ⟨inv_atEnd _ _, (step_total (live_atEnd _ _)).imp fun _ h => h.1⟩

theorem witness_StepKeepsTheAudioBracket :
    AudioBracket (atEnd .durable smallStop) ∧ ∃ t, step (atEnd .durable smallStop) = .next t :=
  ⟨rfl, (step_total (live_atEnd _ _)).imp fun _ h => h.1⟩

theorem witness_AtMostOneReplyAStep : ∃ t, step (atEnd .volatile smallStop) = .next t :=
  (step_total (live_atEnd _ _)).imp fun _ h => h.1

theorem witness_CommitOnlyAtADurableStop :
    BlockInv (atEnd .durable smallStop) ∧
      field (fun s => s.trace.countP Event.isCommitRequest) (step (atEnd .durable smallStop)) = some 1 :=
  ⟨inv_atEnd _ _, by decide +kernel⟩

theorem witness_BufferChangesOnlyAtTheCursor :
    BlockInv (atEnd .volatile smallStop) ∧
      field (fun s => (memGet s.acc 6).isSome) (step (atEnd .volatile smallStop)) = some true ∧
      memGet (atEnd .volatile smallStop).acc 6 = none := ⟨inv_atEnd _ _, by decide +kernel, rfl⟩

theorem witness_BufRdSeesCompletedOperations :
    field (fun s => decide (s.phase = .between)) (step (atEnd .durable smallStop)) = some false ∧
      field (fun s => (decide (s.phase = .between), memGetN s.acc 0 8 == none))
        (step (atEnd .volatile smallStop)) = some (true, false) := by decide +kernel

theorem witness_CommitStageSeesTheTrailer :
    Ready (atEnd .durable smallStop) smallStop [] ∧
      full.length = frameOffset small (atEnd .durable smallStop).curD ∧ full.length + 2 ≤ small.C ∧
      AccPrefix (atEnd .durable smallStop).acc full ∧ (atEnd .durable smallStop).commitIn = [] ∧
      ∃ w, exec .dispatchSdStop (atEnd .durable smallStop) = .next w :=
  ⟨ready_atEnd _ _, by decide, by decide, rfl, rfl,
    ⟨_, (exec_dispatchSdStop (ready_atEnd .durable smallStop)).trans rfl⟩⟩

theorem witness_DecodeAndEncodeAgree :
    (Instr.frameData 0x73746F71#32).wellFormed small = true ∧
      decode (.crcop 0b01#2 255) = .ok (.crcByte 0xFF#8) := by decide

theorem witness_SentIsTheStopPrefix : idle.scratch = zeros idle.cfg.F ∧ [0x73#8, 0x74#8, 0x6F#8].length < 4 :=
  ⟨rfl, by decide⟩

/-- `send d` with the durable flag, `send x`, `send` alone, and another verb; each with a correct answer. -/
def lines : List (Bytes × ParseAnswer) :=
  [(sendVerb ++ [0x20#8, 0x64#8], ⟨⟨.rdy, none⟩, 2#2⟩), (sendVerb ++ [0x20#8, 0x78#8], ⟨⟨.rdy, none⟩, 1#2⟩),
   (sendVerb, ⟨⟨.rdy, none⟩, 1#2⟩), ([0x66#8], ⟨⟨.err, some [0x66#8]⟩, 0#2⟩)]

/-- The block has frames of 64 bytes here, so that the lines fit. -/
theorem witness_SendArmsATransfer :
    (∀ p ∈ lines, Ready { offered 0b00#2 p.1 with parseIn := [p.2] } p.1 [] ∧
      p.1.length ≤ sized.F ∧ parserContract sized p.1 p.2 = true) ∧
    (powerUp sized).scratch = zeros sized.F ∧
    tokensFrom (sendVerb ++ [0x20#8, 0x64#8]) [] = sendVerb :: sized.durableFlag :: [] ∧
    tokensFrom (sendVerb ++ [0x20#8, 0x78#8]) [] = sendVerb :: [0x78#8] :: [] ∧
    tokensFrom sendVerb [] = [sendVerb] ∧ (tokensFrom [0x66#8] []).head? ≠ some sendVerb := by
  have hl : ∀ p ∈ lines, p.1.length ≤ sized.F ∧ parserContract sized p.1 p.2 = true := by decide
  have hs : admitted sized = true := by decide +kernel
  exact ⟨fun p hp => ⟨⟨⟨hs, rfl⟩, rfl, rfl⟩, (hl p hp).1, (hl p hp).2⟩, rfl, by decide, by decide, by decide, by decide⟩

/-- The longest transfer: MAXF frames. -/
theorem witness_VolatileTransferDelivers :
    Live { idle with session := 0b01#2, chunkIn := [smallFrame, smallFrame, smallFrame] ++ smallStop :: [] } ∧
      [smallFrame, smallFrame, smallFrame].length ≤ maxFrames small ∧
      (∀ f ∈ [smallFrame, smallFrame, smallFrame], IsDataFrame small f) ∧ IsStopFrame small smallStop ∧
      idle.phase = .between ∧ idle.rstIn = false ∧ idle.curV = 0 ∧ idle.scratch = zeros small.F := by
  refine ⟨⟨small_admitted, rfl⟩, by decide, fun f hf => ?_, ⟨by decide, by decide⟩, rfl, rfl, rfl, rfl⟩
  have : f = smallFrame := by simpa using hf
  subst this
  exact ⟨by decide, by decide⟩

theorem witness_OverflowedTransferEndsInIdle :
    ∀ d : Dest,
      Live { idle with session := streaming d, chunkIn := [smallFrame, smallFrame, smallFrame] ++ smallFrame :: [] } ∧
      [smallFrame, smallFrame, smallFrame].length = maxFrames small ∧ IsDataFrame small smallFrame ∧
      idle.phase = .between ∧ idle.rstIn = false ∧ cursor d idle = 0 ∧ idle.scratch = zeros small.F :=
  fun d => ⟨⟨small_admitted, rfl⟩, by decide, ⟨by decide, by decide⟩, rfl, rfl, by cases d <;> rfl, rfl⟩

end Sys2Proof.Tests
end

section
/-! SUPPORT. The scope rules: every operation stands behind `operate`, so that a configuration outside rule R8 is
refused; and what a step does to the parameters and to ACC, from the ways in which it can go (`Moves`). -/

namespace Sys2Proof.Machine

/-! ### Every operation stands behind `operate` -/

/-- Outside rule R8 nothing behind `operate` runs. -/
theorem operate_refused {s : State} (h : ¬admitted s.cfg = true) (r : Host.Outcome State Fault Refusal) :
    operate s r = .refused .badConfiguration := if_neg h

theorem route_eq_operate (session : BitVec 2) (long stop : Bool) (s : State) :
    ∃ r, route session long stop s = operate s r := by
  unfold route
  split
  · cases long <;> exact ⟨_, rfl⟩
  · split
    · cases long <;> cases stop <;> exact ⟨_, rfl⟩
    · split
      · cases long <;> cases stop <;> exact ⟨_, rfl⟩
      · exact ⟨_, rfl⟩

theorem frameOfClass_eq_operate (stop : Bool) (s : State) : ∃ r, frameOfClass stop s = operate s r := by
  unfold frameOfClass
  split
  · exact ⟨_, rfl⟩
  · exact route_eq_operate _ _ _ _

/-- The frame classes are the only operations that reach `operate` by way of another one (rule R154). -/
theorem exec_eq_operate (i : Instr) (s : State) : ∃ r, exec i s = operate s r := by
  cases i with
  | frameStop => exact frameOfClass_eq_operate true s
  | frameData index => exact frameOfClass_eq_operate false s
  | _ => exact ⟨_, rfl⟩

/-- Settles O38: step and every operation stand behind `operate`, which refuses. -/
theorem badConfigurationIsRefused : Obligations.BadConfigurationIsRefused := by
  intro s hbad
  have hc : ¬admitted s.cfg = true := fun h => hbad ((admitted_iff s.cfg).mp h)
  refine ⟨operate_refused hc _, fun i => ?_⟩
  obtain ⟨r, hr⟩ := exec_eq_operate i s
  exact hr.trans (operate_refused hc r)

/-! ### The parameters and ACC after the parts of an operation -/

@[simp] theorem cursor_prologue (d : Dest) (b : Bytes) (rest : List Bytes) (s : State) :
    cursor d (prologue b { s with chunkIn := rest }) = cursor d s := by cases d <;> simp

@[simp] theorem completed_cfg (res : IngestResult) (s : State) : (completed res s).cfg = s.cfg := by
  cases res <;> rfl

@[simp] theorem completed_acc (res : IngestResult) (s : State) : (completed res s).acc = s.acc := by
  cases res <;> rfl

@[simp] theorem commitEnd_cfg (crc : Half) (length : Nat) (a : CommitAnswer) (p : State) :
    (commitEnd crc length a p).cfg = p.cfg := by cases a <;> rfl

@[simp] theorem commitEnd_acc (crc : Half) (length : Nat) (a : CommitAnswer) (p : State) :
    (commitEnd crc length a p).acc = p.acc := by cases a <;> rfl

@[simp] theorem parseEnd_cfg (a : ParseAnswer) (p : State) : (parseEnd a p).cfg = p.cfg := rfl

@[simp] theorem parseEnd_acc (a : ParseAnswer) (p : State) : (parseEnd a p).acc = p.acc := rfl

@[simp] theorem closed_cfg (d : Dest) (v : Bytes) (p : State) : (closed d v p).cfg = p.cfg := by
  cases d <;> rfl

@[simp] theorem closed_acc (d : Dest) (v : Bytes) (p : State) :
    (closed d v p).acc = memSetN p.acc (frameOffset p.cfg (cursor d p)) (le16 (crc16 v)) := by
  cases d <;> rfl

@[simp] theorem resetOp_cfg (s : State) : (resetOp s).cfg = s.cfg := by
  unfold resetOp
  cases s.phase <;> rfl

@[simp] theorem resetOp_acc (s : State) : (resetOp s).acc = s.acc := by
  unfold resetOp
  cases s.phase <;> rfl

theorem payload_length_le (s : State) : (payload s).length ≤ payloadSize s.cfg :=
  List.length_take_le _ _

/-! ### Where a step can store -/

/-- `m` is ACC of `s`, or ACC with at most a payload, or a trailer, stored at the cursor of the destination that
SESSION names (rules R122, R124 and R126). -/
def StoresAtCursor (s : State) (m : Memory) : Prop :=
  m = s.acc ∨ ∃ d v, s.session = streaming d ∧ (v.length ≤ payloadSize s.cfg ∨ v.length = 2) ∧
    m = memSetN s.acc (frameOffset s.cfg (cursor d s)) v

theorem StoresAtCursor.unchanged (s : State) : StoresAtCursor s s.acc := .inl rfl

theorem StoresAtCursor.appended {s : State} {d : Dest} (h : s.session = streaming d) :
    StoresAtCursor s (memSetN s.acc (frameOffset s.cfg (cursor d s)) (payload s)) :=
  .inr ⟨d, payload s, h, .inl (payload_length_le s), rfl⟩

theorem StoresAtCursor.closed {s : State} {d : Dest} (v : Bytes) (h : s.session = streaming d) :
    StoresAtCursor s (closed d v s).acc :=
  .inr ⟨d, le16 (crc16 v), h, .inr (le16_length _), closed_acc d v s⟩

/-- A byte that differs afterwards lies in the payload or in the trailer at the cursor. -/
theorem StoresAtCursor.changed {s : State} {m : Memory} (h : StoresAtCursor s m) {a : Nat}
    (ha : memGet m a ≠ memGet s.acc a) :
    ∃ d, s.session = streaming d ∧ frameOffset s.cfg (cursor d s) ≤ a ∧
      (a < nextOffset s.cfg (cursor d s) ∨ a < frameOffset s.cfg (cursor d s) + 2) := by
  rcases h with rfl | ⟨d, v, hd, hv, rfl⟩
  · exact absurd rfl ha
  · have hin : frameOffset s.cfg (cursor d s) ≤ a ∧ a < frameOffset s.cfg (cursor d s) + v.length := by
      by_contra hout
      exact ha (by rw [memGet_memSetN, if_neg hout])
    refine ⟨d, hd, hin.1, ?_⟩
    rw [nextOffset_eq]
    omega

theorem StoresAtCursor.isSome {s : State} {m : Memory} (h : StoresAtCursor s m) {a : Nat}
    (ha : (memGet s.acc a).isSome = true) : (memGet m a).isSome = true := by
  rcases h with rfl | ⟨d, v, -, -, rfl⟩
  · exact ha
  · exact isSome_memSetN _ _ v a ha

/-- A dispatch operation that ran keeps the parameters and stores at the cursor only. -/
theorem Ran.cfg_acc {long stop : Bool} {p t : State} (h : Ran long stop p t) :
    t.cfg = p.cfg ∧ StoresAtCursor p t.acc := by
  cases h with
  | appended d streams => exact ⟨by simp, by simpa using .appended streams⟩
  | completedV v streams => exact ⟨by simp, by simpa using .closed v streams⟩
  | committedD v a more streams => exact ⟨by simp, by simpa using .closed v streams⟩
  | waitsCommit v streams => exact ⟨by simp, by simpa using .closed v streams⟩
  | _ => exact ⟨by simp, by simpa using .unchanged p⟩

/-- A step keeps the parameters and stores at the cursor only. -/
theorem Moves.cfg_acc {s t : State} (h : Moves s t) : t.cfg = s.cfg ∧ StoresAtCursor s t.acc := by
  cases h with
  | runs b rest _ ready noRst ran =>
    obtain ⟨hcfg, hacc⟩ := ran.cfg_acc
    exact ⟨by simpa using hcfg, by simpa [StoresAtCursor] using hacc⟩
  | _ => exact ⟨by simp, by simpa using .unchanged s⟩

/-- Settles O48: ACC after a step is ACC with at most one store at the cursor of SESSION's destination. -/
theorem bufferChangesOnlyAtTheCursor : Obligations.BufferChangesOnlyAtTheCursor := by
  intro s t _ hstep
  obtain ⟨hcfg, hacc⟩ := (step_moves hstep).2.cfg_acc
  exact ⟨hcfg, fun _ ha => hacc.changed ha, fun _ ha => hacc.isSome ha⟩

end Sys2Proof.Machine
end

section
/-! SUPPORT. The invariant inside an operation: `RunInv` is the part of `BlockInv` that the steps of an operation keep,
with one rule for each shared operation. -/

namespace Sys2Proof.Machine

/-- What holds also inside an operation: `BlockInv` without what it says of the waits and of the scratch between
operations, which is `BlockInv` of the state with no operation in flight and FAULT = 1. -/
abbrev RunInv (s : State) : Prop := BlockInv { s with phase := .between, fault := some .accessRange }

/-- The clauses of `RunInv`, those for CUR_V and CUR_D said once over the destinations. -/
theorem RunInv.intro {s : State} (cfg : admitted s.cfg = true) (accWf : Memory.wf s.acc = true)
    (accBound : ∀ cell ∈ s.acc, cell.1 < s.cfg.C) (scratchSize : s.scratch.length = s.cfg.F)
    (scratchLenBound : s.scratchLen.toNat ≤ s.cfg.F) (sessionLegal : s.session ≠ 0b11#2)
    (idle : ∀ d, s.session ≠ streaming d → cursor d s = 0)
    (bound : ∀ d, frameOffset s.cfg (cursor d s) < s.cfg.C)
    (written : ∀ d a, a < frameOffset s.cfg (cursor d s) → (memGet s.acc a).isSome = true) : RunInv s where
  cfg := cfg
  accWf := accWf
  accBound := accBound
  scratchSize := scratchSize
  scratchLenBound := scratchLenBound
  sessionLegal := sessionLegal
  idleV := idle .volatile
  idleD := idle .durable
  boundV := bound .volatile
  boundD := bound .durable
  writtenV := written .volatile
  writtenD := written .durable
  scratchClear := by simp
  waitParse := by simp
  waitCommit := by simp

theorem RunInv.idle {s : State} (h : RunInv s) (d : Dest) (other : s.session ≠ streaming d) : cursor d s = 0 := by
  cases d with
  | volatile => exact h.idleV other
  | durable => exact h.idleD other

theorem RunInv.bound {s : State} (h : RunInv s) (d : Dest) : frameOffset s.cfg (cursor d s) < s.cfg.C := by
  cases d with
  | volatile => exact h.boundV
  | durable => exact h.boundD

theorem RunInv.written {s : State} (h : RunInv s) (d : Dest) :
    ∀ a, a < frameOffset s.cfg (cursor d s) → (memGet s.acc a).isSome = true := by
  cases d with
  | volatile => exact h.writtenV
  | durable => exact h.writtenD

theorem BlockInv.run {s : State} (h : BlockInv s) : RunInv s :=
  { h with
    scratchClear := by simp
    waitParse := by simp
    waitCommit := by simp }

/-- Back to `BlockInv`: what is left to show is about the scratch between operations and the waits. -/
theorem RunInv.block {s : State} (h : RunInv s)
    (scratchClear : s.fault = none → s.phase = .between → s.scratch = zeros s.cfg.F ∧ s.scratchLen = 0)
    (waitParse : s.phase = .waitParse → s.session = 0b00#2)
    (waitCommit : ∀ crc length before, s.phase = .waitCommit crc length before →
      s.session = 0b10#2 ∧ s.curD = 0 ∧ Memory.wf before = true ∧ ∀ cell ∈ before, cell.1 < s.cfg.C) :
    BlockInv s :=
  { h with
    scratchClear := scratchClear
    waitParse := waitParse
    waitCommit := waitCommit }

/-! ### The cursors -/

/-- A capacity of 0 or 1 fails rule R8 (c). -/
theorem capacity_pos_of_admitted {c : Config} (hc : admitted c = true) : 0 < c.C := by
  simpa using le_maxFrames_iff hc 0

theorem streaming_ne_idle (d : Dest) : 0b00#2 ≠ streaming d := by cases d <;> decide

theorem streaming_injective {d e : Dest} (h : streaming d = streaming e) : d = e := by
  revert h
  cases d <;> cases e <;> decide

theorem cursor_setCursor_other {d e : Dest} (h : e ≠ d) (v : Half) (s : State) :
    cursor e (setCursor d v s) = cursor e s := by
  revert h
  cases d <;> cases e <;> simp

theorem RunInv.cursors_zero_of_idle {s : State} (h : RunInv s) (idle : s.session = 0b00#2) (d : Dest) :
    cursor d s = 0 := h.idle d (idle ▸ streaming_ne_idle d)

/-- When a transfer's own cursor goes to 0, both are 0. -/
theorem RunInv.cursors_zero_of_stop {s : State} (h : RunInv s) {d : Dest} (streams : s.session = streaming d)
    (e : Dest) : cursor e (setCursor d 0 s) = 0 := by
  by_cases he : e = d
  · rw [he, cursor_setCursor]
  · rw [cursor_setCursor_other he]
    exact h.idle e fun hs => he (streaming_injective (hs.symm.trans streams))

/-! ### One rule per shared operation -/

/-- No clause reads CRC, the wait, the answers at the ports or the count of free values. -/
theorem RunInv.frame {s : State} (h : RunInv s) (crc : Half) (phase : Phase) (parseIn : List ParseAnswer)
    (commitIn : List CommitAnswer) (draws : Nat) :
    RunInv { s with crc := crc, phase := phase, parseIn := parseIn, commitIn := commitIn, draws := draws } :=
  { h with }

theorem RunInv.emit {s : State} (h : RunInv s) (e : Event) : RunInv (emit e s) := { h with }

theorem RunInv.markFault {s : State} (h : RunInv s) (r : FaultReason) : RunInv (markFault r s) := { h with }

theorem RunInv.epilogue {s : State} (h : RunInv s) : RunInv (epilogue s) :=
  { h with
    scratchSize := zeros_length s.cfg.F
    scratchLenBound := Nat.zero_le _
    scratchClear := by simp }

theorem prologue_scratchLen_le {s : State} {b : Bytes} (hc : admitted s.cfg = true)
    (h : s.scratchLen.toNat ≤ s.cfg.F) : (prologue b s).scratchLen.toNat ≤ s.cfg.F := by
  have hF : s.cfg.F < 2 ^ 16 := ((admitted_iff s.cfg).mp hc).2.2.2.2
  by_cases hb : b.length ≤ s.cfg.F
  · rw [prologue_scratchLen b s hb, BitVec.toNat_ofNat, Nat.mod_eq_of_lt (by omega)]
    exact hb
  · rw [prologue, scratchLoad_long _ _ (by simpa using hb)]
    exact h

theorem RunInv.prologue {s : State} (h : RunInv s) (b : Bytes) (rest : List Bytes) :
    RunInv (prologue b { s with chunkIn := rest }) := by
  have hsize := prologue_scratch_length b { s with chunkIn := rest } h.scratchSize
  have hlen : (Machine.prologue b { s with chunkIn := rest }).scratchLen.toNat ≤ s.cfg.F :=
    prologue_scratchLen_le h.cfg h.scratchLenBound
  exact .intro (by simpa using h.cfg) (by simpa using h.accWf) (by simpa using h.accBound) (by simpa using hsize)
    (by simpa using hlen) (by simpa using h.sessionLegal) (by simpa using h.idle) (by simpa using h.bound)
    (by simpa using h.written)

/-- SESSION can become any legal value while both cursors are 0. -/
theorem RunInv.setSession {s : State} (h : RunInv s) (zero : ∀ d, cursor d s = 0) {v : BitVec 2}
    (legal : v ≠ 0b11#2) : RunInv { s with session := v } :=
  { h with
    sessionLegal := legal
    idleV := fun _ => zero .volatile
    idleD := fun _ => zero .durable
    waitParse := by simp
    waitCommit := by simp }

theorem RunInv.raise {s : State} (h : RunInv s) (zero : ∀ d, cursor d s = 0) (e : ErrEvent) :
    RunInv (raise e s) := (h.emit (.errEvt e)).setSession zero (by decide)

theorem RunInv.completed {s : State} (h : RunInv s) (zero : ∀ d, cursor d s = 0) (res : IngestResult) :
    RunInv (completed res s) := by
  have hidle : RunInv { s with session := 0b00#2 } := h.setSession zero (by decide)
  cases res with
  | contin => exact hidle.emit _
  | complete crc => exact hidle.emit _
  | overflow => exact hidle
  | commitFailed crc => exact hidle

/-- A store inside ACC (rule R51). -/
theorem RunInv.store {s : State} (h : RunInv s) {off : Nat} {v : Bytes} (room : off + v.length ≤ s.cfg.C) :
    RunInv { s with acc := memSetN s.acc off v } :=
  { h with
    accWf := wf_memSetN s.acc off v h.accWf
    accBound := by
      intro cell hcell
      rcases mem_memSetN hcell with hold | ⟨-, hnew⟩
      · exact h.accBound cell hold
      · exact Nat.lt_of_lt_of_le hnew room
    writtenV := fun a ha => isSome_memSetN s.acc off v a (h.writtenV a ha)
    writtenD := fun a ha => isSome_memSetN s.acc off v a (h.writtenD a ha) }

/-- A cursor can move, inside its transfer, to where the bytes below have a value. -/
theorem RunInv.setCursor {s : State} (h : RunInv s) {d : Dest} {v : Half}
    (transfer : s.session ≠ streaming d → v = 0) (bound : frameOffset s.cfg v < s.cfg.C)
    (written : ∀ a, a < frameOffset s.cfg v → (memGet s.acc a).isSome = true) : RunInv (setCursor d v s) := by
  refine .intro (by simpa using h.cfg) (by simpa using h.accWf) (by simpa using h.accBound)
    (by simpa using h.scratchSize) (by simpa using h.scratchLenBound) (by simpa using h.sessionLegal)
    (fun e => ?_) (fun e => ?_) (fun e => ?_) <;> by_cases he : e = d
  · subst he; simpa using transfer
  · simpa [cursor_setCursor_other he] using h.idle e
  · subst he; simpa using bound
  · simpa [cursor_setCursor_other he] using h.bound e
  · subst he; simpa using written
  · simpa [cursor_setCursor_other he] using h.written e

theorem RunInv.setCursor_zero {s : State} (h : RunInv s) (d : Dest) : RunInv (Machine.setCursor d 0 s) :=
  h.setCursor (fun _ => rfl) (by simpa using capacity_pos_of_admitted h.cfg) (by simp)

/-- A data frame that fits, stored at the cursor, which then counts it (rules R124 and R127): the bytes below the new
cursor are those that were below the old one and the payload. -/
theorem RunInv.append {s : State} (h : RunInv s) {d : Dest} (streams : s.session = streaming d)
    (fits : nextOffset s.cfg (cursor d s) < s.cfg.C) :
    RunInv (Machine.setCursor d (cursor d s + 1)
      { s with acc := memSetN s.acc (frameOffset s.cfg (cursor d s)) (payload s) }) := by
  have hlen : (payload s).length = payloadSize s.cfg := payload_length h.cfg h.scratchSize
  have hnext : frameOffset s.cfg (cursor d s + 1) = frameOffset s.cfg (cursor d s) + payloadSize s.cfg := by
    rw [← nextOffset_eq, frameOffset, nextOffset, toNat_add_one h.cfg _ fits]
  rw [nextOffset_eq] at fits
  refine (h.store (by omega)).setCursor (fun hne => absurd streams hne) (hnext ▸ fits) fun a ha => ?_
  by_cases hold : a < frameOffset s.cfg (cursor d s)
  · exact isSome_memSetN _ _ _ a (h.written d a hold)
  · simp only [hnext] at ha
    rw [memGet_memSetN, if_pos (by omega), List.getElem?_eq_getElem (by omega)]
    rfl

/-- The checksum and the trailer of a sentinel, before the cursor goes to 0 (rules R125 and R128). -/
theorem RunInv.trailer {s : State} (h : RunInv s) {d : Dest} {v : Bytes} (closes : Closes d v s) :
    RunInv { s with
      crc := crc16 v, acc := memSetN s.acc (frameOffset s.cfg (cursor d s)) (le16 (crc16 v)) } :=
  have room : frameOffset s.cfg (cursor d s) + (le16 (crc16 v)).length ≤ s.cfg.C := closes.length ▸ closes.room
  (h.store room).frame _ _ _ _ _

theorem RunInv.closed {s : State} (h : RunInv s) {d : Dest} {v : Bytes} (closes : Closes d v s) :
    RunInv (closed d v s) := (h.trailer closes).setCursor_zero d

theorem RunInv.cursors_zero_of_closed {s : State} (h : RunInv s) {d : Dest} {v : Bytes}
    (streams : s.session = streaming d) (closes : Closes d v s) (e : Dest) :
    cursor e (Machine.closed d v s) = 0 := (h.trailer closes).cursors_zero_of_stop streams e

/-- The end of a DISPATCH_CMD: a parser's answer starts a transfer at cursor 0, or leaves Idle (rule R155). -/
theorem RunInv.parseEnd {s : State} (h : RunInv s) (idle : s.session = 0b00#2) (a : ParseAnswer) :
    RunInv (parseEnd a s) := by
  refine ((h.emit _).emit _).setSession (h.cursors_zero_of_idle idle) ?_
  rw [transitionTarget, idle]
  split
  · decide
  · split <;> decide

/-- The end of a DISPATCH_SD_STOP (rule R161). -/
theorem RunInv.commitEnd {s : State} (h : RunInv s) (zero : ∀ d, cursor d s = 0) (crc : Half) (length : Nat)
    (a : CommitAnswer) : RunInv (commitEnd crc length a s) := by
  cases a with
  | ok => exact (h.emit _).completed zero _
  | fail => exact (h.emit _).raise zero _

end Sys2Proof.Machine
end

section
/-! SUPPORT. The statements about the state (spec/10_state.md): how an operation gets from `RunInv` back to `BlockInv`
(by its epilogue, a model fault, a wait, or RESET), so that every step and input keeps the invariant of rule R30; the
values after power-up, the stop of rule R28, and what BUF_RD sees. -/

namespace Sys2Proof.Machine

/-! ### How an operation ends -/

@[simp] theorem parseEnd_phase (a : ParseAnswer) (p : State) : (parseEnd a p).phase = p.phase := rfl

@[simp] theorem completed_phase (res : IngestResult) (s : State) : (completed res s).phase = s.phase := by
  cases res <;> rfl

@[simp] theorem commitEnd_phase (crc : Half) (length : Nat) (a : CommitAnswer) (p : State) :
    (commitEnd crc length a p).phase = p.phase := by cases a <;> rfl

@[simp] theorem closed_phase (d : Dest) (v : Bytes) (p : State) : (closed d v p).phase = p.phase := by
  cases d <;> rfl

@[simp] theorem resetOp_phase (s : State) : (resetOp s).phase = .between := rfl

/-- The block at rest: Idle, both cursors 0, scratch clear, whatever canonical content ACC has. -/
theorem blockInv_of_rest {s : State} (cfg : admitted s.cfg = true) (accWf : Memory.wf s.acc = true)
    (accBound : ∀ cell ∈ s.acc, cell.1 < s.cfg.C) (idle : s.session = 0b00#2) (zeroV : s.curV = 0)
    (zeroD : s.curD = 0) (scratch : s.scratch = zeros s.cfg.F) (scratchLen : s.scratchLen = 0)
    (between : s.phase = .between) : BlockInv s where
  cfg := cfg
  accWf := accWf
  accBound := accBound
  scratchSize := by rw [scratch, zeros_length]
  scratchLenBound := by simp [scratchLen]
  sessionLegal := by rw [idle]; decide
  idleV _ := zeroV
  idleD _ := zeroD
  boundV := by simpa [zeroV] using capacity_pos_of_admitted cfg
  boundD := by simpa [zeroD] using capacity_pos_of_admitted cfg
  writtenV := by simp [zeroV]
  writtenD := by simp [zeroD]
  scratchClear _ _ := ⟨scratch, scratchLen⟩
  waitParse := by simp [between]
  waitCommit := by simp [between]

/-- A dispatch operation ends with its epilogue, which clears the scratch (rule R165). -/
theorem RunInv.block_epilogue {s : State} (h : RunInv s) (between : s.phase = .between) :
    BlockInv (Machine.epilogue s) :=
  h.epilogue.block (fun _ _ => ⟨rfl, rfl⟩) (by simp [between]) (by simp [between])

/-- After a model fault the scratch is left as it is (rules R12 and R28). -/
theorem RunInv.block_markFault {s : State} (h : RunInv s) (between : s.phase = .between) (r : FaultReason) :
    BlockInv (Machine.markFault r s) :=
  (h.markFault r).block (by simp) (by simp [between]) (by simp [between])

/-- The wait for the parser (rule R168). -/
theorem RunInv.block_waitParse {s : State} (h : RunInv s) (idle : s.session = 0b00#2) :
    BlockInv { s with phase := .waitParse } :=
  (h.frame _ _ _ _ _).block (by simp) (fun _ => idle) (by simp)

/-- The wait for the commit stage, with a canonical ACC kept for BUF_RD (rules R38 and R169). -/
theorem RunInv.block_waitCommit {s : State} (h : RunInv s) (durable : s.session = 0b10#2) (zero : s.curD = 0)
    (crc : Half) (length : Nat) {before : Memory} (wf : Memory.wf before = true)
    (inside : ∀ cell ∈ before, cell.1 < s.cfg.C) :
    BlockInv { s with phase := .waitCommit crc length before } :=
  (h.frame _ _ _ _ _).block (by simp) (by simp) fun _ _ _ hphase => by
    cases hphase
    exact ⟨durable, zero, wf, inside⟩

/-- RESET, whatever was in flight (rule R230). -/
theorem RunInv.block_resetOp {s : State} (h : RunInv s) : BlockInv (resetOp s) :=
  blockInv_of_rest (by simpa using h.cfg) (by simpa using h.accWf) (by simpa using h.accBound) rfl rfl rfl
    (by rw [resetOp_cfg]; rfl) rfl rfl

/-! ### Every step and every input -/

/-- However a dispatch operation ends, the invariant holds afterwards. -/
theorem Ran.blockInv {long stop : Bool} {p t : State} (ran : Ran long stop p t) (h : RunInv p)
    (between : p.phase = .between) : BlockInv t := by
  cases ran with
  | waitsParse idle => exact (h.emit _).block_waitParse idle
  | parsed a more idle =>
    exact (((h.emit _).frame _ _ _ _ _).parseEnd idle a).block_epilogue (by simpa using between)
  | brokenContract a more =>
    exact (((h.emit _).frame _ _ _ _ _).emit _).block_markFault (by simpa using between) _
  | rejected len idle =>
    exact ((h.emit _).raise (h.cursors_zero_of_idle idle) _).block_epilogue (by simpa using between)
  | aborted d len streams =>
    exact ((h.setCursor_zero d).raise (h.cursors_zero_of_stop streams) _).block_epilogue (by simpa using between)
  | overflowed d streams =>
    exact ((h.setCursor_zero d).raise (h.cursors_zero_of_stop streams) _).block_epilogue (by simpa using between)
  | appended d streams short data fits =>
    exact ((h.append streams fits).emit _).block_epilogue (by simpa using between)
  | badPayload => exact h.block_markFault between _
  | badTransfer d crc => exact (h.frame crc p.phase _ _ _).block_markFault between _
  | completedV v streams short sentinel closes =>
    have hzero := h.cursors_zero_of_closed streams closes
    exact ((h.closed closes).completed hzero _).block_epilogue (by simpa using between)
  | committedD v a more streams short sentinel closes =>
    have hzero := h.cursors_zero_of_closed streams closes
    exact ((((h.closed closes).emit _).frame _ _ _ _ _).commitEnd hzero _ _ a).block_epilogue (by simpa using between)
  | waitsCommit v streams short sentinel closes =>
    exact ((h.closed closes).emit _).block_waitCommit streams rfl _ _ h.accWf h.accBound
  | reserved session => exact absurd session h.sessionLegal

/-- While the commit stage is awaited both cursors are 0. -/
theorem BlockInv.cursors_zero_of_waitCommit {s : State} (h : BlockInv s) {crc : Half} {length : Nat}
    {before : Memory} (waits : s.phase = .waitCommit crc length before) (d : Dest) : cursor d s = 0 := by
  obtain ⟨hdurable, hcurD, -, -⟩ := h.waitCommit crc length before waits
  cases d with
  | volatile => exact h.idleV (by rw [hdurable]; decide)
  | durable => exact hcurD

theorem Moves.blockInv {s t : State} (moves : Moves s t) (h : BlockInv s) : BlockInv t := by
  cases moves with
  | holds => exact h
  | resets k => exact (h.run.frame _ _ _ _ k).block_resetOp
  | runs b rest _ ready noRst ran => exact ran.blockInv (h.run.prologue b rest) (by simpa using ready.phase)
  | parses a more k waits =>
    exact ((h.run.frame _ .between _ _ k).parseEnd (h.waitParse waits) a).block_epilogue (by simp)
  | breaksContract a more k =>
    exact ((h.run.frame _ .between _ _ k).emit _).block_markFault (by simp) _
  | commits a more k crc length before waits =>
    have hzero := h.cursors_zero_of_waitCommit waits
    exact ((h.run.frame _ .between _ _ k).commitEnd hzero crc length a).block_epilogue (by simp)

/-- An input reaches a port and no register. -/
theorem BlockInv.deliver {s : State} (h : BlockInv s) (i : Input) : BlockInv (deliver i s) := by
  cases i with
  | chunk b => exact { h with }
  | parseAnswer a => exact { h with }
  | commitAnswer a => exact { h with }
  | rst => exact { h with }

/-- Settles O40, by cases on the ways in which a step can go and on the inputs. -/
theorem stepAndInputKeepTheInvariant : Obligations.StepAndInputKeepTheInvariant :=
  ⟨fun _ _ h hstep => (step_moves hstep).2.blockInv h, fun _ i h => h.deliver i⟩

/-- Settles O41: I1 to I5 are clauses of the invariant, and I6 follows since SESSION names one destination only. -/
theorem invariantSaysI1ToI6 : Obligations.InvariantSaysI1ToI6 := by
  intro s h hfault hphase
  have hsession : s.session = 0b00#2 ∨ s.session = 0b01#2 ∨ s.session = 0b10#2 := by
    have hlegal := h.sessionLegal
    generalize s.session = v at hlegal
    revert v
    decide
  have hone : s.curV = 0 ∨ s.curD = 0 := by
    by_cases hv : s.session = 0b01#2
    · exact .inr (h.idleD (by rw [hv]; decide))
    · exact .inl (h.idleV hv)
  exact ⟨hsession, h.idleV, h.idleD, ⟨h.boundV, h.boundD⟩, h.scratchClear hfault hphase, hone⟩

/-! ### After power-up -/

/-- Settles O28: each of these is a field of `State.reset` as it is defined. -/
theorem resetStateValues : Obligations.ResetStateValues :=
  ⟨rfl, rfl, rfl, rfl, rfl, rfl, fun _ => rfl, rfl, rfl⟩

theorem admitted_seedcli : admitted Config.seedcli = true := by decide

theorem reset_eq_powerUp : State.reset = powerUp Config.seedcli := rfl

theorem blockInv_powerUp {c : Config} (hc : admitted c = true) : BlockInv (powerUp c) :=
  blockInv_of_rest hc wf_reset (fun _ hcell => absurd hcell List.not_mem_nil) rfl rfl rfl rfl rfl rfl

/-- The empty trace has no open pause, and nothing waits. -/
theorem audioBracket_powerUp (c : Config) : AudioBracket (powerUp c) := rfl

/-- Settles O39: State.reset is the power-up state of the default configuration, which is admitted. -/
theorem powerUpMeetsTheInvariant : Obligations.PowerUpMeetsTheInvariant :=
  ⟨reset_eq_powerUp ▸ blockInv_powerUp admitted_seedcli, reset_eq_powerUp ▸ audioBracket_powerUp _,
    fun c hc => ⟨blockInv_powerUp hc, audioBracket_powerUp c⟩⟩

/-! ### The stop -/

/-- While FAULT = 1 nothing behind `operate` runs (rule R28). -/
theorem operate_faulted {s : State} {r : FaultReason} (hc : admitted s.cfg = true) (hf : s.fault = some r)
    (result : Host.Outcome State Fault Refusal) : operate s result = .fault (.faultMark r) := by
  simp [operate, hc, hf]

/-- Settles O37: step and every operation stand behind `operate`, which stops. -/
theorem faultMarkStopsEverything : Obligations.FaultMarkStopsEverything := by
  intro s r hc hf
  refine ⟨operate_faulted hc hf _, fun i => ?_⟩
  obtain ⟨result, hexec⟩ := exec_eq_operate i s
  exact hexec.trans (operate_faulted hc hf result)

/-! ### What BUF_RD sees -/

theorem visibleAcc_between {s : State} (h : s.phase = .between) : visibleAcc s = s.acc := by
  rw [visibleAcc, h]

/-- A dispatch operation that waits afterwards leaves visible what ACC held when it began (rule R38). -/
theorem Ran.visibleAcc {long stop : Bool} {p t : State} (ran : Ran long stop p t) (between : p.phase = .between)
    (waits : t.phase ≠ .between) : visibleAcc t = p.acc := by
  cases ran with
  | waitsParse => rfl
  | waitsCommit => rfl
  | _ => exact absurd (by simpa using between) waits

theorem Moves.visibleAcc {s t : State} (moves : Moves s t) (waits : t.phase ≠ .between) :
    visibleAcc t = visibleAcc s := by
  cases moves with
  | holds => rfl
  | runs b rest _ ready noRst ran =>
    rw [ran.visibleAcc (by simpa using ready.phase) waits, visibleAcc_between ready.phase]
    simp
  | _ => exact absurd (by simp) waits

/-- BUF_RD inside ACC answers the bytes it sees, where each of them has a value. -/
theorem bufRd_eq_ok_iff {s : State} {off n : Nat} (inside : off + n ≤ s.cfg.C) (v : Bytes) :
    s.bufRd off n = .ok v ↔ memGetN (visibleAcc s) off n = some v := by
  rw [State.bufRd, if_pos inside]
  cases memGetN (visibleAcc s) off n <;> simp

/-- Settles O49, by cases on the ways in which a step can go. -/
theorem bufRdSeesCompletedOperations : Obligations.BufRdSeesCompletedOperations := by
  intro s t hstep
  refine ⟨(step_moves hstep).2.visibleAcc, fun between off n v inside => ?_⟩
  rw [bufRd_eq_ok_iff inside, visibleAcc_between between]

end Sys2Proof.Machine
end

section
/-! SUPPORT. The statements about the memory (spec/20_memory.md): MemRead, MemWrite and CRC_RANGE inside ACC and beyond
it, why a step from the invariant sets no FAULT, and what the commit stage and BUF_RD read while a commit is open. -/

namespace Sys2Proof.Machine

/-! ### MemRead, MemWrite and CRC_RANGE -/

/-- A read of `n` bytes has no value exactly when one of them has none. -/
theorem memGetN_eq_none_iff (m : Memory) (off n : Nat) :
    memGetN m off n = none ↔ ∃ i, i < n ∧ memGet m (off + i) = none := by
  simpa using not_congr (memGetN_isSome_iff m off n)

theorem memRead_fault {off n : Nat} {s : State} (h : s.cfg.C < off + n ∨ memGetN s.acc off n = none) :
    memRead off n s = .faulted (markFault .accessRange s) := by
  rcases memRead_cases off n s with ⟨v, inside, hv, -⟩ | ⟨-, hfault⟩
  · rcases h with outside | hnone
    · omega
    · simp [hv] at hnone
  · exact hfault

theorem crcRange_fault {L : Nat} {s : State} (h : s.cfg.C < L ∨ memGetN s.acc 0 L = none) :
    ∃ c, crcRange L s = .faulted (markFault .accessRange { s with crc := c }) := by
  rcases crcRange_cases L s with ⟨v, inside, hv, -⟩ | ⟨-, hfault⟩
  · rcases h with outside | hnone
    · omega
    · simp [hv] at hnone
  · exact hfault

/-- Settles O9: each clause is what MemWrite or MemRead does inside ACC or beyond it. -/
theorem bufferAccessOrAccessRange : Obligations.BufferAccessOrAccessRange := by
  intro s off v
  refine ⟨fun inside => ⟨⟨memSetN s.acc off v, memWrite_done inside, storedAt_memSetN s.acc off v,
    wf_memSetN s.acc off v⟩, fun hv => ?_⟩, memWrite_fault, fun n h => ?_⟩
  · exact memRead_done inside ((memGetN_eq_some_iff s.acc off v.length v).mpr ⟨rfl, hv⟩)
  · exact memRead_fault (h.imp_right (memGetN_eq_none_iff s.acc off n).mpr)

/-- Settles O5: CRC_RANGE reads every byte of its range, so it meets the one beyond C or without a value. -/
theorem crcRangeOutsideIsAccessRange : Obligations.CrcRangeOutsideIsAccessRange := by
  intro s L live h
  have hbad : s.cfg.C < L ∨ memGetN s.acc 0 L = none := by simpa [memGetN_eq_none_iff] using h
  obtain ⟨c, hc⟩ := crcRange_fault hbad
  refine ⟨c, ?_⟩
  calc exec (.crcRange L) s = settle (crcRange L s) := operate_live live _
    _ = .next (markFault .accessRange { s with crc := c }) := by rw [hc, settle_faulted]

/-! ### No FAULT under the invariant -/

@[simp] theorem parseEnd_fault (a : ParseAnswer) (p : State) : (parseEnd a p).fault = p.fault := rfl

@[simp] theorem completed_fault (res : IngestResult) (s : State) : (completed res s).fault = s.fault := by
  cases res <;> rfl

@[simp] theorem commitEnd_fault (crc : Half) (length : Nat) (a : CommitAnswer) (p : State) :
    (commitEnd crc length a p).fault = p.fault := by cases a <;> rfl

@[simp] theorem closed_fault (d : Dest) (v : Bytes) (p : State) : (closed d v p).fault = p.fault := by
  cases d <;> rfl

@[simp] theorem resetOp_fault (s : State) : (resetOp s).fault = s.fault := by
  unfold resetOp
  cases s.phase <;> rfl

/-- A payload that does not overflow stays inside ACC (rules R122 and R123). -/
theorem RunInv.payload_inside {s : State} (h : RunInv s) {d : Dest}
    (fits : nextOffset s.cfg (cursor d s) < s.cfg.C) :
    frameOffset s.cfg (cursor d s) + (payload s).length ≤ s.cfg.C := by
  have hlen : (payload s).length = payloadSize s.cfg := payload_length h.cfg h.scratchSize
  rw [hlen, ← nextOffset_eq]
  exact fits.le

/-- Behind the payload of a transfer there is room for the trailer (rule R133). -/
theorem RunInv.trailer_inside {s : State} (h : RunInv s) (d : Dest) :
    frameOffset s.cfg (cursor d s) + 2 ≤ s.cfg.C := room_for_trailer h.cfg _ (h.bound d)

/-- The payload of a transfer has been written (rule R132). -/
theorem RunInv.payload_written {s : State} (h : RunInv s) (d : Dest) :
    memGetN s.acc 0 (frameOffset s.cfg (cursor d s)) ≠ none := by
  intro hnone
  obtain ⟨a, ha, hbyte⟩ := (memGetN_eq_none_iff _ _ _).mp hnone
  have hsome := h.written d a ha
  rw [Nat.zero_add] at hbyte
  simp [hbyte] at hsome

/-- However a dispatch operation ends under the invariant, only a parser's answer with code 3 sets FAULT. -/
theorem Ran.fault_eq_none {long stop : Bool} {p t : State} (ran : Ran long stop p t) (h : RunInv p)
    (fault : p.fault = none) (legal : ∀ a ∈ p.parseIn, a.transition ≠ 3#2) : t.fault = none := by
  cases ran with
  | brokenContract a more idle short answer illegal => exact absurd illegal (legal a (by simp [answer]))
  | badPayload d streams short data fits outside => exact absurd (h.payload_inside fits) outside.not_ge
  | badTransfer d c streams short sentinel bad =>
    rcases bad with noRoom | noValue
    · exact absurd (h.trailer_inside d) noRoom.not_ge
    · exact absurd noValue (h.payload_written d)
  | reserved session => exact absurd session h.sessionLegal
  | _ => simpa using fault

theorem Moves.fault_eq_none {s t : State} (moves : Moves s t) (h : BlockInv s) (fault : s.fault = none)
    (legal : ∀ a ∈ s.parseIn, a.transition ≠ 3#2) : t.fault = none := by
  cases moves with
  | runs b rest _ ready noRst ran =>
    exact ran.fault_eq_none (h.run.prologue b rest) (by simpa using fault) (by simpa using legal)
  | breaksContract a more k waits answer illegal => exact absurd illegal (legal a (by simp [answer]))
  | _ => simpa using fault

/-- Settles O42: a live state always has a step, and under the invariant none of the ways it can go sets FAULT. -/
theorem stepNeverFaults : Obligations.StepNeverFaults := by
  intro s h fault legal
  obtain ⟨t, hstep, moves⟩ := step_total ⟨h.cfg, fault⟩
  exact ⟨t, hstep, moves.fault_eq_none h fault legal⟩

/-! ### What is read while a commit is open -/

theorem commitRead_between {s : State} (h : s.phase = .between) (off : Nat) : s.commitRead off = none := by
  rw [State.commitRead, h]

theorem commitRead_waitCommit {s : State} {crc : Half} {length : Nat} {before : Memory}
    (h : s.phase = .waitCommit crc length before) (off : Nat) :
    s.commitRead off = if off < s.cfg.C then memGet s.acc off else none := by
  rw [State.commitRead, h]

theorem visibleAcc_waitCommit {s : State} {crc : Half} {length : Nat} {before : Memory}
    (h : s.phase = .waitCommit crc length before) : visibleAcc s = before := by
  rw [visibleAcc, h]

theorem bufRd_congr {s t : State} (hcfg : t.cfg = s.cfg) (hacc : visibleAcc t = visibleAcc s) (off n : Nat) :
    t.bufRd off n = s.bufRd off n := by
  simp only [State.bufRd, hcfg, hacc]

theorem Closes.prologue {d : Dest} {v : Bytes} {s : State} (h : Closes d v s) (b : Bytes) (rest : List Bytes) :
    Closes d v (prologue b { s with chunkIn := rest }) :=
  ⟨by simpa using h.length, by simpa using h.bytes, by simpa using h.room⟩

/-- The state in which the sentinel of a durable transfer over the bytes `v`, after the prologue, waits for the commit
stage (rule R169). -/
def awaitingCommit (v : Bytes) (p : State) : State :=
  { emit (.commitRequest (commitLen p.cfg (frameOffset p.cfg p.curD)) p.cfg.commitBase) (closed .durable v p) with
    phase := .waitCommit (crc16 v) (commitLen p.cfg (frameOffset p.cfg p.curD)) p.acc }

theorem durableStop_waits {v : Bytes} {p : State} (closes : Closes .durable v p) (empty : p.commitIn = []) :
    durableStop p = .waiting (awaitingCommit v p) := by
  simp only [durableStop, ingestStopD]
  rw [closeTransfer_done closes.length closes.room closes.bytes, andThen_done, callCommit_nil (by simpa using empty)]
  rfl

theorem exec_dispatchSdStop_waits {s : State} {b : Bytes} {rest : List Bytes} {v : Bytes} (ready : Ready s b rest)
    (closes : Closes .durable v s) (empty : s.commitIn = []) :
    exec .dispatchSdStop s = .next (awaitingCommit v (prologue b { s with chunkIn := rest })) := by
  rw [exec_dispatchSdStop ready, durableStop_waits (closes.prologue b rest) (by simpa using empty), finish_waiting]

/-- The commit stage reads ACC with the trailer behind the payload (rules R61 and R65). -/
theorem commitRead_awaitingCommit {v : Bytes} {p : State} (closes : Closes .durable v p) (off : Nat) :
    (awaitingCommit v p).commitRead off =
      if off < p.cfg.C then memGet (memSetN p.acc v.length (le16 (crc16 v))) off else none := by
  rw [closes.length]
  exact commitRead_waitCommit rfl off

theorem commitRead_payload {v : Bytes} {p : State} (closes : Closes .durable v p) {i : Nat} (hi : i < v.length) :
    (awaitingCommit v p).commitRead i = v[i]? := by
  have room := closes.room
  have hv := ((memGetN_eq_some_iff _ _ _ _).mp closes.bytes).2 i hi
  rw [commitRead_awaitingCommit closes, if_pos (by omega), memGet_memSetN, if_neg (by omega), ← hv, Nat.zero_add]

theorem commitRead_trailer {v : Bytes} {p : State} (closes : Closes .durable v p) {i : Nat} (hi : i < 2) :
    (awaitingCommit v p).commitRead (v.length + i) = (le16 (crc16 v))[i]? := by
  have room := closes.room
  rw [commitRead_awaitingCommit closes, if_pos (by omega), memGet_memSetN, if_pos (by rw [le16_length]; omega),
    Nat.add_sub_cancel_left]

theorem bufRd_awaitingCommit {s : State} (between : s.phase = .between) (b : Bytes) (rest : List Bytes) (v : Bytes)
    (off n : Nat) : (awaitingCommit v (prologue b { s with chunkIn := rest })).bufRd off n = s.bufRd off n := by
  refine bufRd_congr (by simp [awaitingCommit]) ?_ off n
  rw [visibleAcc_between between, visibleAcc_waitCommit rfl, prologue_acc]

/-- Settles O50, from the state in which DISPATCH_SD_STOP waits. -/
theorem commitStageSeesTheTrailer : Obligations.CommitStageSeesTheTrailer := by
  intro s w b rest v ready length room bytes empty hexec
  have closes : Closes .durable v s := ⟨length, bytes, room⟩
  rw [exec_dispatchSdStop_waits ready closes empty] at hexec
  cases hexec
  have closes' := closes.prologue b rest
  refine ⟨fun i hi => commitRead_payload closes' hi, commitRead_trailer closes' (i := 0) (by decide),
    commitRead_trailer closes' (i := 1) (by decide), fun off hoff => ?_, bufRd_awaitingCommit ready.phase b rest v,
    commitRead_between ready.phase⟩
  rw [commitRead_awaitingCommit closes', prologue_cfg, if_neg hoff.not_gt]

end Sys2Proof.Machine
end

section
/-! SUPPORT. The statements about the selectors (spec/30_encoding.md section 2): codes and operations name each other,
and which operation a step and a frame class run. -/

namespace Sys2Proof.Machine

/-! ### One space at a time -/

theorem encode_decodeDsel (v : BitVec 4) : encode (decodeDsel v) = .dsel v := by
  revert v; decide

theorem decodePfx32_stop : decodePfx32 stopPfx32 = .frameStop := if_pos rfl

theorem decodePfx32_of_ne {v : BitVec 32} (h : v ≠ stopPfx32) : decodePfx32 v = .frameData v := if_neg h

theorem encode_decodePfx32 (v : BitVec 32) : encode (decodePfx32 v) = .pfx32 v := by
  by_cases h : v = stopPfx32
  · rw [h, decodePfx32_stop]; rfl
  · rw [decodePfx32_of_ne h]; rfl

theorem encode_decodeIsel (v : BitVec 2) : encode (decodeIsel v) = .isel v := by
  revert v; decide

/-- What a CRCOP selects with its operand (rule R79). -/
theorem decodeCrcop_eq_ok_iff (v : BitVec 2) (operand : Nat) (i : Instr) :
    decodeCrcop v operand = .ok i ↔
      v = 0b00#2 ∧ operand = 0 ∧ i = .crcSeed ∨
      v = 0b01#2 ∧ operand < 256 ∧ i = .crcByte (BitVec.ofNat 8 operand) ∨
      v = 0b10#2 ∧ i = .crcRange operand := by
  have h4 : v = 0b00#2 ∨ v = 0b01#2 ∨ v = 0b10#2 ∨ v = 0b11#2 := by revert v; decide
  rcases h4 with rfl | rfl | rfl | rfl
  · by_cases h : operand = 0 <;> simp [decodeCrcop, h, eq_comm]
  · by_cases h : operand < 256 <;> simp [decodeCrcop, h, eq_comm]
  · simp [decodeCrcop, eq_comm]
  · simp [decodeCrcop]

theorem decodeCrcop_byte (d : Byte) : decodeCrcop 0b01#2 d.toNat = .ok (.crcByte d) := by
  rw [decodeCrcop_eq_ok_iff, BitVec.ofNat_toNat, BitVec.setWidth_eq]
  exact .inr (.inl ⟨rfl, d.isLt, rfl⟩)

theorem encode_of_decodeCrcop {v : BitVec 2} {operand : Nat} {i : Instr} (h : decodeCrcop v operand = .ok i) :
    encode i = .crcop v operand := by
  rcases (decodeCrcop_eq_ok_iff v operand i).mp h with ⟨rfl, rfl, rfl⟩ | ⟨rfl, hbyte, rfl⟩ | ⟨rfl, rfl⟩
  · rfl
  · rw [encode, BitVec.toNat_ofNat, Nat.mod_eq_of_lt hbyte]
  · rfl

/-! ### Codes and operations -/

/-- Well-formedness is needed for a data frame only, whose PREFIX may not be the sentinel (rule R74). -/
theorem decode_encode {c : Config} {i : Instr} (h : i.wellFormed c = true) : decode (encode i) = .ok i := by
  cases i with
  | frameData index =>
    have hne : index ≠ stopPfx32 := bne_iff_ne.mp h
    exact congrArg Except.ok (decodePfx32_of_ne hne)
  | crcByte d => exact decodeCrcop_byte d
  | dispatchCmd sent => cases sent <;> rfl
  | dispatchCmdToolong sent => cases sent <;> rfl
  | dispatchSvToolong sent => cases sent <;> rfl
  | dispatchSdToolong sent => cases sent <;> rfl
  | dispatchReserved long sent => cases long <;> cases sent <;> rfl
  | _ => rfl

theorem encode_of_decode {code : Code} {i : Instr} (h : decode code = .ok i) : encode i = code := by
  cases code with
  | dsel v => cases h; exact encode_decodeDsel v
  | pfx32 v => cases h; exact encode_decodePfx32 v
  | isel v => cases h; exact encode_decodeIsel v
  | crcop v operand => exact encode_of_decodeCrcop h
  | ctrl v =>
    have hv : v = 0#1 ∨ v = 1#1 := by clear h; revert v; decide
    rcases hv with rfl | rfl <;> cases h
    rfl
  | internal step => cases step <;> cases h <;> rfl

/-- Settles O51: `encode` is inverse to `decode` on the well-formed operations, and on every code that is decoded. -/
theorem decodeAndEncodeAgree : Obligations.DecodeAndEncodeAgree :=
  ⟨fun _ _ h => decode_encode h, fun _ _ h => encode_of_decode h⟩

/-- Settles O52, by running through the 16 values. -/
theorem dispatchMapIsTotalAndDisjoint : Obligations.DispatchMapIsTotalAndDisjoint := by
  unfold Obligations.DispatchMapIsTotalAndDisjoint
  decide

/-- Settles O53: each of the nine decodings is a closed one. -/
theorem selectorsOfTheSpec : Obligations.SelectorsOfTheSpec := by
  unfold Obligations.SelectorsOfTheSpec
  decide

/-! ### The operation that runs -/

theorem step_of_ready {s : State} {b : Bytes} {rest : List Bytes} (ready : Ready s b rest) (noRst : s.rstIn = false) :
    step s = exec (decodeDsel (dselOf b s)) s := by
  rw [step, operate_live ready.live]
  simp [ready.phase, nextOperation, noRst, ready.chunk]

/-- Settles O29: the step runs the decoded selector, and no value of DSEL is rejected. -/
theorem stepRunsTheSelectedOperation : Obligations.StepRunsTheSelectedOperation := by
  intro s b rest i ready noRst hdecode
  cases hdecode
  exact step_of_ready ready noRst

theorem frameOfClass_cons {s : State} {b : Bytes} {rest : List Bytes} (chunk : s.chunkIn = b :: rest) (stop : Bool) :
    frameOfClass stop s = route s.session (tooLong s.cfg b.length) stop s := by
  unfold frameOfClass
  rw [chunk]

/-- Settles O24: a frame class and the decoded selector route to the same operation. -/
theorem frameClassSelectsTheOperation : Obligations.FrameClassSelectsTheOperation := by
  intro s b rest index chunk
  exact ⟨(frameOfClass_cons chunk true).trans (exec_decodeDsel _ _ _ _).symm,
    (frameOfClass_cons chunk false).trans (exec_decodeDsel _ _ _ _).symm⟩

theorem tooLong_eq_false {c : Config} {len : Nat} (short : len ≤ c.F) : tooLong c len = false :=
  decide_eq_false short.not_gt

theorem exec_frameData {s : State} {b : Bytes} {rest : List Bytes} {d : Dest} (chunk : s.chunkIn = b :: rest)
    (short : b.length ≤ s.cfg.F) (streams : s.session = streaming d) (index : BitVec 32) :
    exec (.frameData index) s = exec d.dispatchData s :=
  calc exec (.frameData index) s = route s.session (tooLong s.cfg b.length) false s := frameOfClass_cons chunk false
    _ = route (streaming d) false false s := by rw [streams, tooLong_eq_false short]
    _ = exec d.dispatchData s := by cases d <;> rfl

theorem exec_frameStop_volatile {s : State} {b : Bytes} {rest : List Bytes} (chunk : s.chunkIn = b :: rest)
    (short : b.length ≤ s.cfg.F) (streams : s.session = 0b01#2) : exec .frameStop s = exec .dispatchSvStop s :=
  calc exec .frameStop s = route s.session (tooLong s.cfg b.length) true s := frameOfClass_cons chunk true
    _ = route 0b01#2 false true s := by rw [streams, tooLong_eq_false short]
    _ = exec .dispatchSvStop s := rfl

/-! ### What a frame does in a transfer -/

/-- The prologue changes the scratch and the trace only (rules R150 to R152). -/
theorem prologue_eq (b : Bytes) (s : State) :
    ∃ scratch scratchLen, prologue b s =
      { s with scratch := scratch, scratchLen := scratchLen, trace := s.trace ++ [.chunkIn b, .audioPause] } := by
  refine ⟨(prologue b s).scratch, (prologue b s).scratchLen, ?_⟩
  rw [← prologue_trace]
  unfold prologue scratchLoad
  split <;> rfl

/-- A data frame that fits is appended and answered OK (rules R157 and R160). -/
theorem exec_dispatchData_append {s : State} {b : Bytes} {rest : List Bytes} {d : Dest} (ready : Ready s b rest)
    (clear : s.scratch = zeros s.cfg.F) (short : b.length ≤ s.cfg.F)
    (fits : nextOffset s.cfg (cursor d s) < s.cfg.C) :
    exec d.dispatchData s =
      .next { setCursor d (cursor d s + 1) (concluded s b rest [.replyOut ⟨.ok, none⟩]) with
        acc := memSetN s.acc (frameOffset s.cfg (cursor d s)) (paddedPayload s.cfg b) } := by
  have hpay := payload_prologue rest ready.live.cfg clear short
  have hlen := paddedPayload_length ready.live.cfg short
  rw [exec_dispatchData d ready, dataFrame, ingestData_append (by simpa using fits) (by simpa [hpay] using hlen),
    andThen_done, hpay]
  obtain ⟨scratch, scratchLen, hp⟩ := prologue_eq b { s with chunkIn := rest }
  rw [hp]
  cases d <;> rfl

theorem volatileStop_done {v : Bytes} {p : State} (closes : Closes .volatile v p) :
    volatileStop p = .done () (completed (.complete (crc16 v)) (closed .volatile v p)) := by
  rw [volatileStop, ingestStopV, closeTransfer_done closes.length closes.room closes.bytes]
  rfl

/-- The sentinel of a volatile transfer completes it (rule R158). -/
theorem exec_dispatchSvStop_completes {s : State} {b : Bytes} {rest : List Bytes} {v : Bytes} (ready : Ready s b rest)
    (closes : Closes .volatile v s) :
    exec .dispatchSvStop s =
      .next { concluded s b rest [.replyOut (fnshReply (crc16 v))] with
        acc := memSetN s.acc (frameOffset s.cfg s.curV) (le16 (crc16 v))
        crc := crc16 v, curV := 0, session := 0b00#2 } := by
  rw [exec_dispatchSvStop ready, volatileStop_done (closes.prologue b rest), finish_done]
  obtain ⟨scratch, scratchLen, hp⟩ := prologue_eq b { s with chunkIn := rest }
  rw [hp]
  rfl

/-- Settles O25, through the dispatch operation that each frame class runs. -/
theorem frameClassesCompleteInATransfer : Obligations.FrameClassesCompleteInATransfer := by
  intro s b rest ready short
  refine ⟨fun d index streams clear fits => ?_, fun v streams length room bytes => ?_⟩
  · rw [exec_frameData ready.chunk short streams, exec_dispatchData_append ready clear short fits]
    exact ⟨_, rfl, storedAt_memSetN _ _ _⟩
  · rw [exec_frameStop_volatile ready.chunk short streams,
      exec_dispatchSvStop_completes ready ⟨length, bytes, room⟩]
    exact ⟨_, rfl, storedAt_memSetN _ _ _⟩

end Sys2Proof.Machine
end

section
/-! SUPPORT. The statements about the PREFIX of a frame and the condition SENT (spec/30_encoding.md sections 1, 2 and
5), and about the codes and the text of a reply (section 3). -/

namespace Sys2Proof.Machine

/-! ### The PREFIX of a frame -/

/-- The first four bytes of a frame, zero where the frame has ended (rules R71 and R86). -/
def prefixOf (frame : Bytes) : Bytes := [frame.getD 0 0, frame.getD 1 0, frame.getD 2 0, frame.getD 3 0]

/-- No bit of the PREFIX is lost in `PFX32`, and none moves to another byte (rule R73). -/
theorem prefixBytes_pfx32 (frame : Bytes) : prefixBytes (pfx32 frame) = prefixOf frame := by
  unfold prefixBytes pfx32 prefixOf
  simp only [List.cons.injEq, and_true]
  refine ⟨?_, ?_, ?_, ?_⟩ <;> ext i hi <;> interval_cases i <;> simp

theorem pfx32_eq_stop_iff (frame : Bytes) : pfx32 frame = stopPfx32 ↔ prefixOf frame = sentinel := by
  constructor
  · intro h
    rw [← prefixBytes_pfx32, h]
    decide
  · intro h
    simp only [prefixOf, sentinel, List.cons.injEq, and_true] at h
    obtain ⟨h0, h1, h2, h3⟩ := h
    rw [pfx32, h0, h1, h2, h3]
    decide

/-- A frame of fewer than four bytes cannot pass for the sentinel, which has no byte 0x00 (rules R72 and R86). -/
theorem prefixOf_eq_sentinel_iff (frame : Bytes) : prefixOf frame = sentinel ↔ frame.take 4 = sentinel := by
  match frame with
  | [] => decide
  | [_] => simp [prefixOf, sentinel]
  | [_, _] => simp [prefixOf, sentinel]
  | [_, _, _] => simp [prefixOf, sentinel]
  | _ :: _ :: _ :: _ :: _ => simp [prefixOf, sentinel]

/-! ### SENT -/

theorem sent_iff (s : State) : sent s = true ↔ prefixOf s.scratch = sentinel := by
  simp [sent, prefixOf, sentinel, and_assoc]

theorem scratchLoad_zero_scratch {s : State} {b : Bytes} (clear : s.scratch = zeros s.cfg.F)
    (short : b.length ≤ s.cfg.F) : (scratchLoad b s).scratch = padded s.cfg b := by
  rw [scratchLoad_scratch b s short, clear, padded, zeros, zeros, List.drop_replicate]

/-- The padding takes the place of at least the sentinel's last byte (rule R86). -/
theorem take_padded_ne_sentinel (c : Config) {b : Bytes} (h : b.length < 4) : (padded c b).take 4 ≠ sentinel := by
  intro htake
  have hlast : ((padded c b).take 4)[3]? = some 0x70#8 := by rw [htake]; rfl
  simp [padded, zeros, List.getElem?_append, List.getElem?_replicate, Nat.le_of_lt_succ h] at hlast

/-- SENT of a chunk, when the scratch was clear before it was offered (rules R121 and R152). -/
theorem sent_scratchLoad_iff {s : State} (b : Bytes) (clear : s.scratch = zeros s.cfg.F) :
    sent (scratchLoad b s) = true ↔ b.length ≤ s.cfg.F ∧ (padded s.cfg b).take 4 = sentinel := by
  rw [sent_iff, prefixOf_eq_sentinel_iff]
  by_cases short : b.length ≤ s.cfg.F
  · simp [scratchLoad_zero_scratch clear short, short]
  · have hzeros : (zeros s.cfg.F).take 4 ≠ sentinel := take_padded_ne_sentinel s.cfg (b := []) (by decide)
    simp [scratchLoad_long b s (Nat.lt_of_not_le short), clear, short, hzeros]

/-- Settles O54: both conditions are about the four bytes of the PREFIX, and a short chunk leaves zeros there. -/
theorem sentIsTheStopPrefix : Obligations.SentIsTheStopPrefix := by
  refine ⟨fun s => (sent_iff s).trans (pfx32_eq_stop_iff s.scratch).symm, fun s b clear short => ?_⟩
  rw [← Bool.not_eq_true, sent_scratchLoad_iff b clear]
  exact fun h => take_padded_ne_sentinel s.cfg short h.2

/-- Settles O30: SESSION and TOOLONG stand in the selector as they are, and SENT is that of the padded chunk. -/
theorem selectorIsSessionTooLongSent : Obligations.SelectorIsSessionTooLongSent := by
  intro s b clear
  have hsent : sent (scratchLoad b s) = decide (b.length ≤ s.cfg.F ∧ (padded s.cfg b).take 4 = sentinel) :=
    Bool.eq_iff_iff.mpr ((sent_scratchLoad_iff b clear).trans decide_eq_true_iff.symm)
  rw [dselOf, hsent]
  rfl

/-! ### The decimal rendering (rule R82) -/

/-- The ASCII digit of the last decimal place of `n`. -/
def digitByte (n : Nat) : Byte := BitVec.ofNat 8 (0x30 + n % 10)

@[simp] theorem toNat_digitByte (n : Nat) : (digitByte n).toNat = 0x30 + n % 10 := by
  rw [digitByte, BitVec.toNat_ofNat]
  omega

theorem decDigits_succ (fuel n : Nat) :
    decDigits (fuel + 1) n = (if n < 10 then [] else decDigits fuel (n / 10)) ++ [digitByte n] := rfl

theorem decDigits_succ_of_lt {n : Nat} (h : n < 10) (fuel : Nat) : decDigits (fuel + 1) n = [digitByte n] := by
  rw [decDigits_succ, if_pos h, List.nil_append]

theorem decDigits_succ_of_ge {n : Nat} (h : 10 ≤ n) (fuel : Nat) :
    decDigits (fuel + 1) n = decDigits fuel (n / 10) ++ [digitByte n] := by
  rw [decDigits_succ, if_neg h.not_gt]

theorem decDigits_length_le (fuel n : Nat) : (decDigits fuel n).length ≤ fuel := by
  induction fuel generalizing n with
  | zero => exact Nat.le_refl 0
  | succ fuel ih =>
    rcases Nat.lt_or_ge n 10 with h | h
    · simp [decDigits_succ_of_lt h]
    · simpa [decDigits_succ_of_ge h] using ih (n / 10)

theorem decDigits_succ_length_pos (fuel n : Nat) : 0 < (decDigits (fuel + 1) n).length := by
  simp [decDigits_succ]

theorem decDigits_ascii (fuel n : Nat) : ∀ x ∈ decDigits fuel n, 0x30 ≤ x.toNat ∧ x.toNat ≤ 0x39 := by
  induction fuel generalizing n with
  | zero => exact fun x hx => absurd hx List.not_mem_nil
  | succ fuel ih =>
    have hlast : 0x30 ≤ (digitByte n).toNat ∧ (digitByte n).toNat ≤ 0x39 := by rw [toNat_digitByte]; omega
    rcases Nat.lt_or_ge n 10 with h | h
    · simpa [decDigits_succ_of_lt h] using hlast
    · intro x hx
      rw [decDigits_succ_of_ge h, List.mem_append, List.mem_singleton] at hx
      rcases hx with hx | rfl
      · exact ih (n / 10) x hx
      · exact hlast

/-- ASCII digits read in base 10, the most significant first. -/
def decValue (digits : Bytes) : Nat := digits.foldl (fun acc x => 10 * acc + (x.toNat - 0x30)) 0

theorem decValue_append_digitByte (digits : Bytes) (n : Nat) :
    decValue (digits ++ [digitByte n]) = 10 * decValue digits + n % 10 := by
  simp [decValue]

theorem decValue_decDigits {fuel n : Nat} (h : n < 10 ^ fuel) : decValue (decDigits fuel n) = n := by
  induction fuel generalizing n with
  | zero => exact (Nat.lt_one_iff.mp h).symm
  | succ fuel ih =>
    rcases Nat.lt_or_ge n 10 with hn | hn
    · rw [decDigits_succ_of_lt hn, ← List.nil_append [digitByte n], decValue_append_digitByte, Nat.mod_eq_of_lt hn]
      exact Nat.zero_add n
    · rw [decDigits_succ_of_ge hn, decValue_append_digitByte, ih (by omega)]
      exact Nat.div_add_mod n 10

theorem decDigits_ne_nil {fuel n : Nat} (pos : 0 < n) (h : n < 10 ^ fuel) : decDigits fuel n ≠ [] := by
  intro hnil
  have hvalue := decValue_decDigits h
  rw [hnil] at hvalue
  exact pos.ne hvalue

/-- A positive number does not begin with the digit 0. -/
theorem decDigits_head_ne_zero {fuel n : Nat} (pos : 0 < n) (h : n < 10 ^ fuel) :
    (decDigits fuel n).head? ≠ some 0x30#8 := by
  induction fuel generalizing n with
  | zero => exact nofun
  | succ fuel ih =>
    rcases Nat.lt_or_ge n 10 with hn | hn
    · intro hhead
      rw [decDigits_succ_of_lt hn, List.head?_singleton, Option.some.injEq] at hhead
      have hdigit : 0x30 + n % 10 = 0x30 := (toNat_digitByte n).symm.trans (congrArg BitVec.toNat hhead)
      omega
    · rw [decDigits_succ_of_ge hn, List.head?_append_of_ne_nil _ (decDigits_ne_nil (by omega) (by omega))]
      exact ih (by omega) (by omega)

/-- Settles O55: five places hold every 16-bit value. -/
theorem decimalRendering : Obligations.DecimalRendering := by
  intro n
  have hn : n.toNat < 10 ^ 5 := Nat.lt_trans n.isLt (by decide)
  refine ⟨decDigits_succ_length_pos 4 _, decDigits_length_le 5 _, decDigits_ascii 5 _, fun hhead => ?_,
    decValue_decDigits hn⟩
  rcases Nat.eq_zero_or_pos n.toNat with hzero | hpos
  · rw [dec, hzero]; rfl
  · exact absurd hhead (decDigits_head_ne_zero hpos hn)

/-! ### Reply lines and codes -/

theorem replyLine_bare (c : Config) (status : Status) :
    replyLine c ⟨status, none⟩ = c.replyTag ++ [0x20#8] ++ statusText status ++ c.replyEol :=
  congrArg (· ++ c.replyEol) (List.append_nil _)

theorem replyLine_detail (c : Config) (status : Status) (detail : Bytes) :
    replyLine c ⟨status, some detail⟩ =
      c.replyTag ++ [0x20#8] ++ statusText status ++ ([0x3A#8, 0x20#8] ++ detail) ++ c.replyEol := rfl

/-- Settles O56: the two lines are their parts (rule R81), joined. -/
theorem replyLinesOnTheWire : Obligations.ReplyLinesOnTheWire := by
  intro c crc
  refine ⟨congrArg some ((replyLine_bare c .ok).trans ?_),
    congrArg some ((replyLine_detail c .fnsh (fnshText ++ dec crc)).trans ?_), rfl, rfl⟩ <;>
    simp only [List.append_assoc] <;> rfl

/-- Settles O57: each code as its table gives it. -/
theorem numericCodesOfTheSpec : Obligations.NumericCodesOfTheSpec := by
  refine ⟨fun crc => ⟨rfl, rfl, rfl, rfl⟩, ⟨rfl, rfl, rfl, rfl, rfl, fun st => ?_⟩, ⟨rfl, rfl⟩, fun e => ?_⟩
  · cases st <;> decide
  · cases e <;> rfl

end Sys2Proof.Machine
end

section
/-! SUPPORT. The statements about the checksum engine (spec/40_checksum.md): each checksum operation in every live
state, and the algebra of `crc16`. -/

namespace Sys2Proof.Machine

/-! ### CRC_SEED, CRC_BIT and CRC_BYTE -/

/-- Settles O1: a live state runs the operation, which is the assignment of the seed. -/
theorem crcSeedLoadsTheSeed : Obligations.CrcSeedLoadsTheSeed := fun s live =>
  operate_live live (.next (crcSeed s))

/-- Settles O2: a live state runs the operation, and `crcBitValue` is the shift and the conditional XOR. -/
theorem crcBitShiftsAndXors : Obligations.CrcBitShiftsAndXors := fun s live =>
  operate_live live (.next (crcBit s))

theorem crcBits_eq_iterate (n : Nat) (c : Half) : crcBits n c = crcBitValue^[n] c := by
  induction n generalizing c with
  | zero => rfl
  | succ n ih => exact ih (crcBitValue c)

/-- Settles O3: the loop of CRC_BYTE is the iterate of CRC_BIT. -/
theorem crcByteRunsEightBits : Obligations.CrcByteRunsEightBits := by
  intro s d live
  calc exec (.crcByte d) s = .next { s with crc := crcBits 8 (s.crc ^^^ d.setWidth 16) } := operate_live live _
    _ = .next { s with crc := crcBitValue^[8] (s.crc ^^^ d.setWidth 16) } := by rw [crcBits_eq_iterate]

/-! ### CRC_RANGE -/

/-- CRC_RANGE as an operation of its own, over bytes that all have a value. -/
theorem exec_crcRange {s : State} {L : Nat} {v : Bytes} (live : Live s) (inside : L ≤ s.cfg.C)
    (hv : memGetN s.acc 0 L = some v) : exec (.crcRange L) s = .next { s with crc := crc16 v } := by
  calc exec (.crcRange L) s = settle (crcRange L s) := operate_live live _
    _ = .next { s with crc := crc16 v } := by rw [crcRange_done L s v inside hv, settle_done]

/-- Settles O4: `crc16` is the fold from the seed. -/
theorem crcRangeFoldsTheBytes : Obligations.CrcRangeFoldsTheBytes := fun _ _ live inside bytes =>
  exec_crcRange live inside bytes

/-- Settles O6: both states read the same byte string, and CRC becomes its `crc16`. -/
theorem crcRangeDependsOnlyOnTheRange : Obligations.CrcRangeDependsOnlyOnTheRange := by
  intro s t L liveS liveT insideS insideT agree
  have hsome : (memGetN s.acc 0 L).isSome = true :=
    (memGetN_isSome_iff s.acc 0 L).mpr fun i hi => by simpa using (agree i hi).1
  have hsame : memGetN s.acc 0 L = memGetN t.acc 0 L := memGetN_congr fun i hi => by simpa using (agree i hi).2
  obtain ⟨v, hv⟩ := Option.isSome_iff_exists.mp hsome
  exact ⟨_, _, exec_crcRange liveS insideS hv, exec_crcRange liveT insideT (hsame ▸ hv), rfl⟩

/-! ### The algebra of `crc16` -/

theorem crc16_append (a b : Bytes) : crc16 (a ++ b) = b.foldl crcStep (crc16 a) := List.foldl_append

/-- Settles O7: a fold over no bytes is its start, and over `a ++ b` it goes on from where it was after `a`. -/
theorem crcOfEmptyAndConcatenation : Obligations.CrcOfEmptyAndConcatenation := ⟨rfl, crc16_append⟩

theorem crcBitValue_of_even {c : Half} (even : c.getLsbD 0 = false) : crcBitValue c = c >>> 1 := by
  rw [crcBitValue, if_neg (Bool.eq_false_iff.mp even)]

/-- While only zeros leave at the low end, the polynomial is never XORed in and the iterations are a plain shift. -/
theorem crcBits_of_low_zero {n : Nat} {c : Half} (low : ∀ i, i < n → c.getLsbD i = false) :
    crcBits n c = c >>> n := by
  induction n generalizing c with
  | zero => rfl
  | succ n ih =>
    have hrest : ∀ i, i < n → (c >>> 1).getLsbD i = false := fun i hi => by
      rw [BitVec.getLsbD_ushiftRight]
      exact low (1 + i) (by omega)
    calc crcBits (n + 1) c = crcBits n (c >>> 1) := by rw [crcBits, crcBitValue_of_even (low 0 n.succ_pos)]
      _ = (c >>> 1) >>> n := ih hrest
      _ = c >>> (n + 1) := by rw [← BitVec.shiftRight_add, Nat.add_comm]

/-- The low byte of CRC, absorbed, cancels itself and leaves the high byte in its place. -/
theorem crcStep_low_byte (c : Half) : crcStep c (c.extractLsb' 0 8) = (c.extractLsb' 8 8).setWidth 16 := by
  have low : ∀ i, i < 8 → (c ^^^ (c.extractLsb' 0 8).setWidth 16).getLsbD i = false := fun i hi => by
    simp [hi, show i < 16 by omega]
  rw [crcStep, crcBits_of_low_zero low]
  ext i hi
  have top : c.getLsbD (8 + i) = true → i < 8 := fun h => by
    have := BitVec.lt_of_getLsbD h
    omega
  simpa using top

/-- A byte that is all that CRC holds cancels it. -/
theorem crcStep_self (d : Byte) : crcStep (d.setWidth 16) d = 0 := by
  rw [crcStep, BitVec.xor_self]
  rfl

/-- CRC absorbs its own two bytes, the low one first, to zero. -/
theorem foldl_crcStep_le16 (c : Half) : (le16 c).foldl crcStep c = 0 := by
  calc (le16 c).foldl crcStep c = crcStep (crcStep c (c.extractLsb' 0 8)) (c.extractLsb' 8 8) := rfl
    _ = 0 := by rw [crcStep_low_byte, crcStep_self]

/-- Settles O8: after `d` CRC is `crc16 d`, and it absorbs its own bytes to zero; the swapped bytes are evaluated. -/
theorem crcResidueIsZero : Obligations.CrcResidueIsZero := by
  refine ⟨fun d => ?_, ?_⟩
  · rw [crc16_append, foldl_crcStep_le16]
  · have hzero : crc16 [0x00#8] = 0x0F87#16 := by decide
    have hswapped : (le16 0x0F87#16).reverse = [0x0F#8, 0x87#8] := by decide
    have hhigh : crcStep 0x0F87#16 0x0F#8 = 0x084F#16 := by decide
    have hlow : crcStep 0x084F#16 0x87#8 = 0x4A4C#16 := by decide
    rw [crc16_append, hzero, hswapped, List.foldl_cons, List.foldl_cons, List.foldl_nil, hhigh, hlow]

end Sys2Proof.Machine
end

section
/-! SUPPORT. The statements about the sequencer (spec/41_ingestion.md sections 2 to 4): the ingestion operations and
TRAILER_WRITE in every live state, and the bounds of a transfer. -/

namespace Sys2Proof.Machine

/-! ### TRAILER_WRITE -/

theorem StoredAt.inside {m m' : Memory} {off : Nat} {v : Bytes} (h : StoredAt m off v m') {i : Nat}
    (hi : i < v.length) : memGet m' (off + i) = v[i]? := by
  rw [h, if_pos (by omega), Nat.add_sub_cancel_left]

theorem StoredAt.outside {m m' : Memory} {off : Nat} {v : Bytes} (h : StoredAt m off v m') {a : Nat}
    (ha : a < off ∨ off + v.length ≤ a) : memGet m' a = memGet m a := by
  rw [h, if_neg (by omega)]

theorem StoredAt.read {m m' : Memory} {off n : Nat} {v : Bytes} (h : StoredAt m off v m') (hn : v.length = n) :
    memGetN m' off n = some v :=
  (memGetN_eq_some_iff m' off n v).mpr ⟨hn, fun _ hi => h.inside (hn ▸ hi)⟩

theorem exec_trailerWrite {s : State} (live : Live s) (L : Nat) (crc : Half) :
    exec (.trailerWrite L crc) s = settle (memWrite L (le16 crc) s) := operate_live live _

/-- Settles O10: TRAILER_WRITE is a MemWrite of the two bytes of `le16`. -/
theorem trailerWriteIsLittleEndian : Obligations.TrailerWriteIsLittleEndian := by
  intro s L crc live
  rw [exec_trailerWrite live]
  refine ⟨fun inside => ?_, fun outside => ?_⟩
  · have stored := storedAt_memSetN s.acc L (le16 crc)
    exact ⟨memSetN s.acc L (le16 crc), by rw [memWrite_done inside, settle_done], stored.inside (i := 0) Nat.two_pos,
      stored.inside (i := 1) Nat.one_lt_two, fun a ha => stored.outside ha⟩
  · rw [memWrite_fault outside, settle_faulted]
    rfl

/-! ### The ingestion operations -/

theorem exec_ingestData {s : State} (live : Live s) (d : Dest) :
    exec d.ingestData s = settleResult (ingestData d s) := by
  cases d <;> exact operate_live live _

/-- Settles O11: the overflow detector decides between the two ways in which a data frame can go. -/
theorem ingestDataAppendsOrOverflows : Obligations.IngestDataAppendsOrOverflows := by
  intro s d live size
  rw [exec_ingestData live]
  refine ⟨fun fits => ⟨_, ?_, storedAt_memSetN _ _ _⟩, fun exceeds => ?_⟩
  · rw [ingestData_append fits (payload_length live.cfg size), settleResult_done, payload_eq_drop live.cfg size]
    cases d <;> rfl
  · rw [ingestData_overflow exceeds, settleResult_done]

theorem closeTransfer_of_closes {d : Dest} {v : Bytes} {s : State} (closes : Closes d v s) :
    closeTransfer d s = .done (crc16 v) (closed d v s) :=
  closeTransfer_done closes.length closes.room closes.bytes

/-- Settles O12: the common part of a sentinel, whose checksum is the result. -/
theorem ingestStopVClosesTheTransfer : Obligations.IngestStopVClosesTheTransfer := by
  intro s v live length room bytes
  have closes : Closes .volatile v s := ⟨length, bytes, room⟩
  refine ⟨_, ?_, storedAt_memSetN _ _ _⟩
  calc exec .ingestStopV s = settleResult (ingestStopV s) := operate_live live _
    _ = settleResult (.done (.complete (crc16 v)) (closed .volatile v s)) := by
      rw [ingestStopV, closeTransfer_of_closes closes, andThen_done]
    _ = _ := rfl

theorem commitAnswered_done (crc : Half) (a : CommitAnswer) (s : State) :
    commitAnswered crc a s =
      .done (if a = .ok then .complete crc else .commitFailed crc) (emit (.commitResponse a) s) := by
  cases a <;> rfl

/-- INGEST_STOP_D with the commit stage's answer at hand: the common part of a sentinel, the request, the answer
(rules R128 and R129). -/
theorem ingestStopD_answered {v : Bytes} {s : State} {a : CommitAnswer} {more : List CommitAnswer}
    (closes : Closes .durable v s) (answer : s.commitIn = a :: more) :
    ingestStopD s =
      .done (if a = .ok then .complete (crc16 v) else .commitFailed (crc16 v))
        (emit (.commitResponse a)
          { emit (.commitRequest (commitLen s.cfg v.length) s.cfg.commitBase) (closed .durable v s) with
            commitIn := more }) := by
  have answer' : (closed .durable v s).commitIn = a :: more := answer
  simp only [ingestStopD]
  rw [closeTransfer_of_closes closes, andThen_done, callCommit_cons answer', commitAnswered_done, closes.length]
  rfl

/-- Settles O13: `commitLen` is the length that the request names. -/
theorem ingestStopDRequestsACommit : Obligations.IngestStopDRequestsACommit := by
  intro s v a more live length room bytes answer
  refine ⟨_, ?_, storedAt_memSetN _ _ _⟩
  calc exec .ingestStopD s = settleResult (ingestStopD s) := operate_live live _
    _ = _ := by
      rw [ingestStopD_answered ⟨length, bytes, room⟩ answer, settleResult_done]
      simp [emit, closed, commitLen]

/-! ### The bounds of a transfer -/

theorem ovf_eq_false_iff (c : Config) (cur : Half) : ovf c cur = false ↔ nextOffset c cur < c.C := by
  rw [← Bool.not_eq_true, ovf_iff, Nat.not_le]

theorem nextOffset_lt_iff {c : Config} (hc : admitted c = true) (cur : Half) :
    nextOffset c cur < c.C ↔ cur.toNat < maxFrames c := le_maxFrames_iff hc (cur.toNat + 1)

/-- Settles O14: `k` frames fit below the capacity exactly for `k` up to MAXF, and rule R8 leaves two bytes more. -/
theorem transferBounds : Obligations.TransferBounds := fun c hc =>
  ⟨room_for_trailer hc (maxFrames c) ((le_maxFrames_iff hc (maxFrames c)).mpr le_rfl),
    fun cur => (ovf_eq_false_iff c cur).trans (nextOffset_lt_iff hc cur)⟩

end Sys2Proof.Machine
end

section
/-! SUPPORT. When a COMMIT request is made (rules R129, R161 and R169): which of the ways in which a step can go adds
one to the trace. -/

namespace Sys2Proof.Machine

/-! ### The trace after the parts of an operation -/

@[simp] theorem parseEnd_trace (a : ParseAnswer) (p : State) :
    (parseEnd a p).trace = p.trace ++ [.parseResponse a, .replyOut a.reply] := by
  simp [parseEnd]

@[simp] theorem completed_trace (crc : Half) (s : State) :
    (completed (.complete crc) s).trace = s.trace ++ [.replyOut (fnshReply crc)] := rfl

@[simp] theorem closed_trace (d : Dest) (v : Bytes) (p : State) : (closed d v p).trace = p.trace := by
  cases d <;> rfl

/-- A COMMIT response and then FNSH or COMMIT_FAILURE (rule R161). -/
@[simp] theorem commitEnd_trace (crc : Half) (length : Nat) (a : CommitAnswer) (p : State) :
    (commitEnd crc length a p).trace = p.trace ++
      [.commitResponse a, if a = .ok then .replyOut (fnshReply crc) else .errEvt (.commitFailure crc length)] := by
  cases a <;> simp [commitEnd]

/-- RST, and the AUDIO_RESUME of an operation that it abandons (rule R230). -/
@[simp] theorem resetOp_trace (s : State) :
    (resetOp s).trace = s.trace ++ if s.phase = .between then [.rst] else [.rst, .audioResume] := by
  unfold resetOp
  cases s.phase <;> simp

/-! ### COMMIT requests -/

/-- From `s` to `t` the trace has grown by `n` COMMIT requests, among other events. -/
structure AddsCommitRequests (n : Nat) (s t : State) : Prop where
  grows : s.trace <+: t.trace
  count : t.trace.countP Event.isCommitRequest = s.trace.countP Event.isCommitRequest + n

theorem AddsCommitRequests.events {n : Nat} {s t : State} (h : AddsCommitRequests n s t) :
    ∃ events, t.trace = s.trace ++ events ∧ events.countP Event.isCommitRequest = n := by
  obtain ⟨events, htrace⟩ := h.grows
  refine ⟨events, htrace.symm, ?_⟩
  have hcount := h.count
  rwa [← htrace, List.countP_append, Nat.add_left_cancel_iff] at hcount

/-- The prologue itself makes no COMMIT request (rules R150 and R151). -/
theorem AddsCommitRequests.of_prologue {n : Nat} {s t : State} {b : Bytes} {rest : List Bytes}
    (h : AddsCommitRequests n (prologue b { s with chunkIn := rest }) t) : AddsCommitRequests n s t := by
  obtain ⟨grows, count⟩ := h
  rw [prologue_trace] at grows count
  refine ⟨(List.prefix_append _ _).trans grows, ?_⟩
  simpa [Event.isCommitRequest] using count

/-- Only the sentinel of a durable transfer makes a COMMIT request, and it makes one. -/
theorem Ran.commitRequests {long stop : Bool} {p t : State} (ran : Ran long stop p t) :
    AddsCommitRequests 0 p t ∨
      AddsCommitRequests 1 p t ∧ p.session = streaming .durable ∧ stop = true := by
  cases ran with
  | committedD v a more streams short sentinel =>
    exact .inr ⟨⟨by simp, by cases a <;> simp <;> rfl⟩, streams, sentinel⟩
  | waitsCommit v streams short sentinel =>
    exact .inr ⟨⟨by simp, by simp [Event.isCommitRequest]⟩, streams, sentinel⟩
  | _ => exact .inl ⟨by simp, by simp [Event.isCommitRequest]⟩

/-- Only a step that accepts a chunk makes a COMMIT request: after a wait there is only the answer to it. -/
theorem Moves.commitRequests {s t : State} (moves : Moves s t) :
    AddsCommitRequests 0 s t ∨
      AddsCommitRequests 1 s t ∧ s.session = streaming .durable ∧ ∃ b rest, Ready s b rest ∧
        sent (scratchLoad b s) = true := by
  cases moves with
  | runs b rest _ ready noRst ran =>
    rcases ran.commitRequests with noRequest | ⟨request, streams, sentinel⟩
    · exact .inl noRequest.of_prologue
    · exact .inr ⟨request.of_prologue, by simpa using streams, b, rest, ready, sentinel⟩
  | resets k rst => exact .inl ⟨by simp, by cases s.phase <;> simp [Event.isCommitRequest]⟩
  | commits a more k crc length before waits answer =>
    exact .inl ⟨by simp, by cases a <;> simp [Event.isCommitRequest]⟩
  | _ => exact .inl ⟨by simp, by simp [Event.isCommitRequest]⟩

/-- Settles O47: between operations the scratch is clear, so that SENT is that of the padded chunk. -/
theorem commitOnlyAtADurableStop : Obligations.CommitOnlyAtADurableStop := by
  intro s t h hstep
  obtain ⟨live, moves⟩ := step_moves hstep
  rcases moves.commitRequests with noRequest | ⟨request, streams, b, rest, ready, sentinel⟩
  · obtain ⟨events, htrace, hcount⟩ := noRequest.events
    exact ⟨events, htrace, by omega, by omega⟩
  · obtain ⟨events, htrace, hcount⟩ := request.events
    have clear := (h.scratchClear live.fault ready.phase).1
    exact ⟨events, htrace, hcount.le, fun _ =>
      ⟨streams, b, rest, ready.chunk, (sent_scratchLoad_iff b clear).mp sentinel⟩⟩

end Sys2Proof.Machine
end

section
/-! SUPPORT. The statements about whole transfers: a run over data frames has a closed form, by induction on the frames,
and the sentinel, or the frame that overflows, is one step more. -/

namespace Sys2Proof.Machine

/-! ### One frame of a transfer -/

/-- Between two frames of a transfer: the next chunk offered is taken as a frame for the destination `d`. -/
structure AwaitsFrame (d : Dest) (s : State) : Prop where
  live : Live s
  phase : s.phase = .between
  noRst : s.rstIn = false
  streams : s.session = streaming d
  clear : s.scratch = zeros s.cfg.F

theorem AwaitsFrame.ready {d : Dest} {s : State} (h : AwaitsFrame d s) {b : Bytes} {rest : List Bytes}
    (chunk : s.chunkIn = b :: rest) : Ready s b rest := ⟨h.live, h.phase, chunk⟩

theorem AwaitsFrame.step_eq_route {d : Dest} {s : State} (h : AwaitsFrame d s) {b : Bytes} {rest : List Bytes}
    (chunk : s.chunkIn = b :: rest) (short : b.length ≤ s.cfg.F) :
    step s = route (streaming d) false (sent (scratchLoad b s)) s := by
  rw [step_of_ready (h.ready chunk) h.noRst, dselOf, exec_decodeDsel, h.streams, tooLong_eq_false short]

theorem AwaitsFrame.step_data {d : Dest} {s : State} (h : AwaitsFrame d s) {b : Bytes} {rest : List Bytes}
    (chunk : s.chunkIn = b :: rest) (data : IsDataFrame s.cfg b) : step s = exec d.dispatchData s := by
  have notSent : sent (scratchLoad b s) = false := by
    rw [← Bool.not_eq_true, sent_scratchLoad_iff b h.clear]
    exact fun stop => data.2 stop.2
  rw [h.step_eq_route chunk data.1, notSent]
  cases d <;> rfl

theorem AwaitsFrame.step_stop {s : State} (h : AwaitsFrame .volatile s) {b : Bytes} {rest : List Bytes}
    (chunk : s.chunkIn = b :: rest) (stop : IsStopFrame s.cfg b) : step s = exec .dispatchSvStop s := by
  rw [h.step_eq_route chunk stop.1, (sent_scratchLoad_iff b h.clear).mpr stop]
  rfl

/-- A data frame that overflows ends the transfer in Idle and is not answered (rules R157, R160 and R202). -/
theorem exec_dispatchData_overflow {s : State} {b : Bytes} {rest : List Bytes} {d : Dest} (ready : Ready s b rest)
    (exceeds : s.cfg.C ≤ nextOffset s.cfg (cursor d s)) :
    exec d.dispatchData s =
      .next { setCursor d 0 (concluded s b rest [.errEvt (.transferOverflow d (cursor d s).toNat)]) with
        session := 0b00#2 } := by
  rw [exec_dispatchData d ready, dataFrame, ingestData_overflow (by simpa using exceeds), andThen_done]
  obtain ⟨scratch, scratchLen, hp⟩ := prologue_eq b { s with chunkIn := rest }
  rw [hp]
  cases d <;> rfl

/-! ### A run over data frames -/

/-- The bytes that data frames leave in ACC: their padded payloads, in order (rules R52 and R124). -/
def payloads (c : Config) (frames : List Bytes) : Bytes := frames.flatMap (paddedPayload c)

theorem payloads_length {c : Config} {frames : List Bytes} (hc : admitted c = true)
    (data : ∀ f ∈ frames, IsDataFrame c f) : (payloads c frames).length = frames.length * payloadSize c := by
  have each : ∀ f ∈ frames, (paddedPayload c f).length = payloadSize c := fun f hf =>
    paddedPayload_length hc (data f hf).1
  rw [payloads, List.length_flatMap, List.map_congr_left each, List.map_const', List.sum_replicate, smul_eq_mul]

/-- Two stores, the second where the first ends, are one. -/
theorem memSetN_append (m : Memory) (off : Nat) (v w : Bytes) :
    memSetN (memSetN m off v) (off + v.length) w = memSetN m off (v ++ w) := by
  induction v generalizing m off with
  | nil => rfl
  | cons b v ih =>
    rw [List.cons_append, memSetN, memSetN, ← ih, List.length_cons, Nat.add_right_comm, Nat.add_assoc]

/-- The state `s` after data frames were appended to the transfer to `d`, with `rest` still on offer. SCRATCH_LEN is 0
then, unless there were no frames. -/
def afterFrames (d : Dest) (frames rest : List Bytes) (scratchLen : Half) (s : State) : State :=
  { setCursor d (cursor d s + BitVec.ofNat 16 frames.length) s with
    acc := memSetN s.acc (frameOffset s.cfg (cursor d s)) (payloads s.cfg frames)
    chunkIn := rest
    scratch := zeros s.cfg.F
    scratchLen := scratchLen
    trace := s.trace ++ frames.flatMap dataEvents }

@[simp] theorem afterFrames_cfg (d : Dest) (frames rest : List Bytes) (len : Half) (s : State) :
    (afterFrames d frames rest len s).cfg = s.cfg := by cases d <;> rfl

@[simp] theorem afterFrames_fault (d : Dest) (frames rest : List Bytes) (len : Half) (s : State) :
    (afterFrames d frames rest len s).fault = s.fault := by cases d <;> rfl

@[simp] theorem afterFrames_trace (d : Dest) (frames rest : List Bytes) (len : Half) (s : State) :
    (afterFrames d frames rest len s).trace = s.trace ++ frames.flatMap dataEvents := rfl

theorem afterFrames_acc (d : Dest) (frames rest : List Bytes) (len : Half) (s : State) :
    (afterFrames d frames rest len s).acc =
      memSetN s.acc (frameOffset s.cfg (cursor d s)) (payloads s.cfg frames) := rfl

theorem cursor_afterFrames (d : Dest) (frames rest : List Bytes) (len : Half) (s : State) :
    cursor d (afterFrames d frames rest len s) = cursor d s + BitVec.ofNat 16 frames.length := by
  cases d <;> rfl

theorem AwaitsFrame.after {d : Dest} {s : State} (h : AwaitsFrame d s) (frames rest : List Bytes) (len : Half) :
    AwaitsFrame d (afterFrames d frames rest len s) := by
  obtain ⟨⟨cfg, fault⟩, phase, noRst, streams, -⟩ := h
  cases d <;> exact ⟨⟨cfg, fault⟩, phase, noRst, streams, rfl⟩

theorem afterFrames_nil {d : Dest} {s : State} (clear : s.scratch = zeros s.cfg.F) :
    afterFrames d [] s.chunkIn s.scratchLen s = s := by
  cases d <;> simp [afterFrames, payloads, memSetN, ← clear]

theorem frameOffset_add_one {c : Config} (hc : admitted c = true) {cur : Half} (fits : nextOffset c cur < c.C) :
    frameOffset c (cur + 1) = frameOffset c cur + payloadSize c := by
  rw [← nextOffset_eq, frameOffset, nextOffset, toNat_add_one hc cur fits]

/-- The frames after the first are appended where the first one ends. -/
theorem afterFrames_cons {d : Dest} {s : State} {f : Bytes} {frames rest rest' : List Bytes} {len len' : Half}
    (hc : admitted s.cfg = true) (short : f.length ≤ s.cfg.F) (fits : nextOffset s.cfg (cursor d s) < s.cfg.C) :
    afterFrames d frames rest len (afterFrames d [f] rest' len' s) = afterFrames d (f :: frames) rest len s := by
  have hcur : cursor d s + 1 + BitVec.ofNat 16 frames.length = cursor d s + BitVec.ofNat 16 (f :: frames).length := by
    rw [List.length_cons, BitVec.ofNat_add, BitVec.add_assoc, BitVec.add_comm 1]
    rfl
  have hacc : memSetN (memSetN s.acc (frameOffset s.cfg (cursor d s)) (payloads s.cfg [f]))
        (frameOffset s.cfg (cursor d s + 1)) (payloads s.cfg frames) =
      memSetN s.acc (frameOffset s.cfg (cursor d s)) (payloads s.cfg (f :: frames)) := by
    have hone : (payloads s.cfg [f]).length = payloadSize s.cfg := by
      simpa [payloads] using paddedPayload_length hc short
    rw [frameOffset_add_one hc fits, ← hone, memSetN_append]
    simp [payloads]
  cases d <;> simpa [afterFrames] using And.intro hcur hacc

/-- One data frame that fits is one step. -/
theorem AwaitsFrame.step_append {d : Dest} {s : State} (h : AwaitsFrame d s) {b : Bytes} {rest : List Bytes}
    (chunk : s.chunkIn = b :: rest) (data : IsDataFrame s.cfg b) (fits : nextOffset s.cfg (cursor d s) < s.cfg.C) :
    step s = .next (afterFrames d [b] rest 0 s) := by
  rw [h.step_data chunk data, exec_dispatchData_append (h.ready chunk) h.clear data.1 fits]
  cases d <;> simp [afterFrames, concluded, payloads, dataEvents]

/-- As many steps as there are data frames append them all, while they fit. -/
theorem AwaitsFrame.run_append {d : Dest} {frames rest : List Bytes} {s : State} (h : AwaitsFrame d s)
    (chunks : s.chunkIn = frames ++ rest) (data : ∀ f ∈ frames, IsDataFrame s.cfg f)
    (fit : (cursor d s).toNat + frames.length ≤ maxFrames s.cfg) :
    ∃ len, ∀ n, core.run (frames.length + n) s = core.run n (afterFrames d frames rest len s) := by
  induction frames generalizing s with
  | nil =>
    rw [List.nil_append] at chunks
    exact ⟨s.scratchLen, fun n => by rw [← chunks, afterFrames_nil h.clear, List.length_nil, Nat.zero_add]⟩
  | cons f frames ih =>
    obtain ⟨first, others⟩ := List.forall_mem_cons.mp data
    rw [List.length_cons] at fit
    have fits : nextOffset s.cfg (cursor d s) < s.cfg.C := (nextOffset_lt_iff h.live.cfg _).mpr (by omega)
    have hcur : (cursor d (afterFrames d [f] (frames ++ rest) 0 s)).toNat = (cursor d s).toNat + 1 := by
      rw [cursor_afterFrames]
      exact toNat_add_one h.live.cfg _ fits
    obtain ⟨len, hrun⟩ := ih (h.after [f] (frames ++ rest) 0) rfl (by simpa using others)
      (by rw [afterFrames_cfg, hcur]; omega)
    refine ⟨len, fun n => ?_⟩
    calc core.run ((f :: frames).length + n) s = core.run (frames.length + n + 1) s := by
          rw [List.length_cons, Nat.add_right_comm]
      _ = core.run (frames.length + n) (afterFrames d [f] (frames ++ rest) 0 s) :=
          core_run_succ _ (h.step_append chunks first fits)
      _ = core.run n (afterFrames d (f :: frames) rest len s) := by
          rw [hrun, afterFrames_cons h.live.cfg first.1 fits]

/-! ### Whole transfers -/

theorem toNat_cursor_afterFrames {d : Dest} {s : State} {frames : List Bytes} (hc : admitted s.cfg = true)
    (armed : cursor d s = 0) (fit : frames.length ≤ maxFrames s.cfg) (rest : List Bytes) (len : Half) :
    (cursor d (afterFrames d frames rest len s)).toNat = frames.length := by
  obtain ⟨-, -, -, hmax, -⟩ := (admitted_iff s.cfg).mp hc
  have hsmall : frames.length < 2 ^ 16 := by omega
  rw [cursor_afterFrames, armed]
  simpa using hsmall

theorem afterFrames_acc_of_armed {d : Dest} {s : State} (armed : cursor d s = 0) (frames rest : List Bytes)
    (len : Half) : (afterFrames d frames rest len s).acc = memSetN s.acc 0 (payloads s.cfg frames) := by
  rw [afterFrames_acc, armed]
  exact congrArg (memSetN s.acc · _) (frameOffset_zero s.cfg)

/-- After the data frames of a transfer the sentinel finds their payloads, with room for the trailer (rule R133). -/
theorem closes_afterFrames {d : Dest} {s : State} {frames : List Bytes} (hc : admitted s.cfg = true)
    (armed : cursor d s = 0) (fit : frames.length ≤ maxFrames s.cfg) (data : ∀ f ∈ frames, IsDataFrame s.cfg f)
    (rest : List Bytes) (len : Half) : Closes d (payloads s.cfg frames) (afterFrames d frames rest len s) := by
  have hlen := payloads_length hc data
  refine ⟨?_, ?_, ?_⟩
  · rw [afterFrames_cfg, frameOffset, toNat_cursor_afterFrames hc armed fit, hlen]
  · rw [AccPrefix, afterFrames_acc_of_armed armed]
    exact memGetN_memSetN_same s.acc 0 _
  · rw [afterFrames_cfg, hlen]
    exact room_for_trailer hc _ ((le_maxFrames_iff hc _).mpr fit)

/-- The sentinel of a volatile transfer stores the checksum of the payloads behind them, and FNSH names it. -/
theorem AwaitsFrame.step_complete {frames rest : List Bytes} {stop : Bytes} {len : Half} {s : State}
    (h : AwaitsFrame .volatile s) (armed : cursor .volatile s = 0) (fit : frames.length ≤ maxFrames s.cfg)
    (data : ∀ f ∈ frames, IsDataFrame s.cfg f) (sentinel : IsStopFrame s.cfg stop) :
    step (afterFrames .volatile frames (stop :: rest) len s) =
      .next { concluded (afterFrames .volatile frames (stop :: rest) len s) stop rest
          [.replyOut (fnshReply (crc16 (payloads s.cfg frames)))] with
        acc := memSetN s.acc 0 (payloads s.cfg frames ++ le16 (crc16 (payloads s.cfg frames)))
        crc := crc16 (payloads s.cfg frames), curV := 0, session := 0b00#2 } := by
  have h' := h.after frames (stop :: rest) len
  have closes : Closes .volatile _ _ := closes_afterFrames h.live.cfg armed fit data (stop :: rest) len
  rw [h'.step_stop rfl sentinel, exec_dispatchSvStop_completes (h'.ready rfl) closes, ← cursor_volatile,
    ← closes.length, afterFrames_acc_of_armed armed, ← memSetN_append, Nat.zero_add]

/-- Settles O59: the run over the data frames, and then the sentinel's step. -/
theorem volatileTransferDelivers : Obligations.VolatileTransferDelivers := by
  intro s frames stop rest live phase noRst streams armed clear fit data sentinel chunks
  have h : AwaitsFrame .volatile s := ⟨live, phase, noRst, streams, clear⟩
  obtain ⟨len, hrun⟩ := h.run_append chunks data (by simpa [armed] using fit)
  have hstep := h.step_complete (rest := rest) (len := len) armed fit data sentinel
  have stored := storedAt_memSetN s.acc 0 (payloads s.cfg frames ++ le16 (crc16 (payloads s.cfg frames)))
  have hlen : (payloads s.cfg frames ++ le16 (crc16 (payloads s.cfg frames))).length =
      (payloads s.cfg frames).length + 2 := List.length_append
  refine ⟨_, (hrun 1).trans (core_run_succ 0 hstep), rfl, rfl, rfl, rfl, live.fault, stored.read hlen,
    crcResidueIsZero.1 _, fun a ha => stored.outside (.inr ?_), ?_⟩
  · rw [hlen, Nat.zero_add]
    exact ha
  · simp [concluded, payloads]

/-- A data frame after MAXF others overflows: it leaves ACC as they left it (rules R123 and R202). -/
theorem AwaitsFrame.step_overflow {d : Dest} {frames rest : List Bytes} {last : Bytes} {len : Half} {s : State}
    (h : AwaitsFrame d s) (armed : cursor d s = 0) (count : frames.length = maxFrames s.cfg)
    (data : IsDataFrame s.cfg last) :
    step (afterFrames d frames (last :: rest) len s) =
      .next { setCursor d 0 (concluded (afterFrames d frames (last :: rest) len s) last rest
          [.errEvt (.transferOverflow d (maxFrames s.cfg))]) with
        acc := memSetN s.acc 0 (payloads s.cfg frames), session := 0b00#2 } := by
  have h' := h.after frames (last :: rest) len
  have hcur := toNat_cursor_afterFrames h.live.cfg armed count.le (last :: rest) len
  have exceeds : ¬nextOffset s.cfg (cursor d (afterFrames d frames (last :: rest) len s)) < s.cfg.C := by
    rw [nextOffset_lt_iff h.live.cfg, hcur, count]
    exact lt_irrefl _
  rw [h'.step_data rfl (by simpa using data), exec_dispatchData_overflow (h'.ready rfl) (by simpa using exceeds), hcur,
    count, ← afterFrames_acc_of_armed armed frames (last :: rest) len]
  cases d <;> rfl

/-- Settles O60: the run over MAXF data frames, and then the step of the one that overflows. -/
theorem overflowedTransferEndsInIdle : Obligations.OverflowedTransferEndsInIdle := by
  intro s d frames last rest live phase noRst streams armed clear count data lastData chunks
  have h : AwaitsFrame d s := ⟨live, phase, noRst, streams, clear⟩
  obtain ⟨len, hrun⟩ := h.run_append chunks data (by simp [armed, count])
  have hstep := h.step_overflow (rest := rest) (len := len) armed count lastData
  have stored := storedAt_memSetN s.acc 0 (payloads s.cfg frames)
  refine ⟨_, (hrun 1).trans (core_run_succ 0 hstep), rfl, ?_, setCursor_chunkIn d 0 _, ?_, stored.read rfl,
    fun a ha => stored.outside (.inr ?_), ?_⟩
  · cases d <;> rfl
  · simpa [concluded] using live.fault
  · rw [Nat.zero_add]
    exact ha
  · simp [concluded]

end Sys2Proof.Machine
end

section
/-! SUPPORT. The statements about the dispatcher (spec/42_dispatcher.md): what each dispatch operation that accepts a
chunk ends in, with its whole frame, and that a block that can accept none stays as it is. -/

namespace Sys2Proof.Machine

/-! ### The chunk as a rule finds it -/

/-- The state that a dispatch operation's own rule finds: the chunk accepted and, padded with zeros, in SCRATCH (rules
R150 to R152). -/
def loaded (s : State) (b : Bytes) (rest : List Bytes) : State :=
  { s with
    chunkIn := rest
    scratch := padded s.cfg b
    scratchLen := BitVec.ofNat 16 b.length
    trace := s.trace ++ [.chunkIn b, .audioPause] }

theorem prologue_eq_loaded {s : State} {b : Bytes} (clear : s.scratch = zeros s.cfg.F) (short : b.length ≤ s.cfg.F)
    (rest : List Bytes) : prologue b { s with chunkIn := rest } = loaded s b rest := by
  have hscratch : b ++ s.scratch.drop b.length = padded s.cfg b :=
    (scratchLoad_scratch b s short).symm.trans (scratchLoad_zero_scratch clear short)
  simp [prologue, scratchLoad, loaded, emit, short, hscratch]

theorem prologue_eq_of_long {s : State} {b : Bytes} (long : s.cfg.F < b.length) (rest : List Bytes) :
    prologue b { s with chunkIn := rest } =
      { s with chunkIn := rest, trace := s.trace ++ [.chunkIn b, .audioPause] } := by
  rw [prologue, scratchLoad_long _ _ (by simpa using long)]
  simp [emit]

theorem toNat_scratchLen_loaded {s : State} {b : Bytes} (hc : admitted s.cfg = true) (short : b.length ≤ s.cfg.F)
    (rest : List Bytes) : (loaded s b rest).scratchLen.toNat = b.length := by
  obtain ⟨-, -, -, -, hF⟩ := (admitted_iff s.cfg).mp hc
  exact Nat.mod_eq_of_lt (short.trans_lt hF)

/-- The command line is the chunk, without its padding (rules R75 and R155). -/
theorem commandLine_loaded {s : State} {b : Bytes} (hc : admitted s.cfg = true) (short : b.length ≤ s.cfg.F)
    (rest : List Bytes) : commandLine (loaded s b rest) = b := by
  rw [commandLine, toNat_scratchLen_loaded hc short]
  exact List.take_left' rfl

/-! ### DISPATCH_CMD -/

/-- DISPATCH_CMD after its PARSE request, from the state `p` that its prologue left (rule R155). -/
def parseRequested (p : State) : State := emit (.parseRequest (commandLine p) p.scratchLen.toNat) p

/-- The state in which DISPATCH_CMD waits for the parser (rule R168). -/
def awaitingParse (p : State) : State := { parseRequested p with phase := .waitParse }

theorem parseRequested_loaded {s : State} {b : Bytes} (hc : admitted s.cfg = true) (short : b.length ≤ s.cfg.F)
    (rest : List Bytes) : parseRequested (loaded s b rest) = emit (.parseRequest b b.length) (loaded s b rest) := by
  rw [parseRequested, commandLine_loaded hc short, toNat_scratchLen_loaded hc short]

theorem exec_dispatchCmd_waits {s : State} {b : Bytes} {rest : List Bytes} (ready : Ready s b rest)
    (empty : s.parseIn = []) (sent : Bool) :
    exec (.dispatchCmd sent) s = .next (awaitingParse (prologue b { s with chunkIn := rest })) := by
  rw [exec_dispatchCmd sent ready, callParse_nil (by simpa using empty), finish_waiting]
  rfl

theorem exec_dispatchCmd_answered {s : State} {b : Bytes} {rest : List Bytes} {a : ParseAnswer}
    {more : List ParseAnswer} (ready : Ready s b rest) (answer : s.parseIn = a :: more) (sent : Bool) :
    exec (.dispatchCmd sent) s =
      finish (parseAnswered a { parseRequested (prologue b { s with chunkIn := rest }) with parseIn := more }) := by
  rw [exec_dispatchCmd sent ready, callParse_cons (a := a) (rest := more) (by simpa using answer), parseRequested]

/-- Settles O20: the request is the last event before the wait. -/
theorem commandWaitsForTheParser : Obligations.CommandWaitsForTheParser := by
  intro s b rest sent ready clear short empty
  rw [exec_dispatchCmd_waits ready empty, prologue_eq_loaded clear short, awaitingParse,
    parseRequested_loaded ready.live.cfg short]
  simp [loaded, emit]

/-- Settles O19: whether the transition is code 3 decides between the two ways in which an answer can be taken. -/
theorem commandFollowsTheParser : Obligations.CommandFollowsTheParser := by
  intro s b rest a more sent ready clear short answer
  rw [exec_dispatchCmd_answered ready answer, prologue_eq_loaded clear short,
    parseRequested_loaded ready.live.cfg short]
  refine ⟨fun legal => ?_, fun illegal => ?_⟩
  · rw [parseAnswered_done legal, finish_done]
    simp [loaded, concluded, epilogue, emit, transitionTarget]
  · rw [parseAnswered_fault illegal, finish_faulted]
    simp [loaded, markFault, emit]

/-! ### The parser's contract -/

theorem parserContract_send {c : Config} {line : Bytes} {a : ParseAnswer} {args : List Bytes}
    (contract : parserContract c line a = true) (send : tokensFrom line [] = sendVerb :: args) :
    a.transition = if args.head? = some c.durableFlag then 2#2 else 1#2 := by
  simp only [parserContract, send, if_true, Bool.and_eq_true, beq_iff_eq] at contract
  exact contract.2

theorem parserContract_other {c : Config} {line : Bytes} {a : ParseAnswer}
    (contract : parserContract c line a = true) (other : (tokensFrom line []).head? ≠ some sendVerb) :
    a.transition = 0#2 := by
  have first {other : Bool} (h : (a.transition == 0#2 && other) = true) : a.transition = 0#2 :=
    eq_of_beq (Bool.and_eq_true_iff.mp h).1
  unfold parserContract at contract
  split at contract
  · exact first contract
  · next verb args htokens =>
    have hverb : verb ≠ sendVerb := by simpa [htokens] using other
    rw [if_neg hverb] at contract
    split_ifs at contract <;> exact first contract

/-- Within its contract the parser never answers with code 3 (rules R83 and R87). -/
theorem transition_ne_three_of_parserContract {c : Config} {line : Bytes} {a : ParseAnswer}
    (contract : parserContract c line a = true) : a.transition ≠ 3#2 := by
  by_cases send : (tokensFrom line []).head? = some sendVerb
  · obtain ⟨args, htokens⟩ := List.head?_eq_some_iff.mp send
    rw [parserContract_send contract htokens]
    split <;> decide
  · rw [parserContract_other contract send]
    decide

/-- Settles O58, from what DISPATCH_CMD does with the transition that the contract fixes for each kind of line. -/
theorem sendArmsATransfer : Obligations.SendArmsATransfer := by
  intro s b rest a more sent ready clear short idle answer contract
  have legal := transition_ne_three_of_parserContract contract
  refine ⟨_, (commandFollowsTheParser s b rest a more sent ready clear short answer).1 legal, ready.live.fault,
    ready.phase, fun flag args send => ?_, fun send => ?_, fun other => ?_⟩
  · by_cases durable : flag = s.cfg.durableFlag <;> simp [parserContract_send contract send, durable]
  · simp [parserContract_send contract send]
  · simp [parserContract_other contract other, idle]

/-! ### Over-length chunks and the reserved session state -/

/-- Settles O21: the reply and then the error event, between prologue and epilogue. -/
theorem overLengthCommandIsRejected : Obligations.OverLengthCommandIsRejected := by
  intro s b rest sent ready
  rw [exec_dispatchCmdToolong sent ready, rejectTooLong, finish_done]
  obtain ⟨scratch, scratchLen, hp⟩ := prologue_eq b { s with chunkIn := rest }
  rw [hp]
  simp [concluded, epilogue, raise, emit, tooLongText]

/-- Settles O22: the error event names the cursor as it was before it went to 0. -/
theorem overLengthFrameAbortsTheTransfer : Obligations.OverLengthFrameAbortsTheTransfer := by
  intro s b rest d sent ready
  rw [exec_dispatchToolong d sent ready, abortTooLong, finish_done, cursor_prologue]
  obtain ⟨scratch, scratchLen, hp⟩ := prologue_eq b { s with chunkIn := rest }
  rw [hp]
  cases d <;> rfl

/-- Settles O23: the prologue and then the mark; only the prologue asks for the length of the chunk. -/
theorem reservedSessionFaults : Obligations.ReservedSessionFaults := by
  intro s b rest long sent ready clear
  rw [exec_dispatchReserved long sent ready]
  by_cases short : b.length ≤ s.cfg.F
  · rw [prologue_eq_loaded clear short, if_pos short, if_pos short]
    rfl
  · rw [prologue_eq_of_long (Nat.lt_of_not_le short), if_neg short, if_neg short, ← clear]
    rfl

/-! ### Frames of a transfer -/

/-- Settles O15, through the two ways in which a data frame can go. -/
theorem dataFrameIsAppendedOrOverflows : Obligations.DataFrameIsAppendedOrOverflows :=
  fun _ _ _ _ ready clear short =>
    ⟨fun fits => ⟨_, exec_dispatchData_append ready clear short fits, storedAt_memSetN _ _ _⟩,
      exec_dispatchData_overflow ready⟩

/-- Settles O16, with the transfer's bytes as the sentinel finds them. -/
theorem volatileStopReplies : Obligations.VolatileStopReplies :=
  fun _ _ _ _ ready length room bytes =>
    ⟨_, exec_dispatchSvStop_completes ready ⟨length, bytes, room⟩, storedAt_memSetN _ _ _⟩

/-- DISPATCH_SD_STOP after its COMMIT request over the bytes `v`, from the state `p` that its prologue
left (rule R128). -/
def commitRequested (v : Bytes) (p : State) : State :=
  emit (.commitRequest (commitLen p.cfg v.length) p.cfg.commitBase) (closed .durable v p)

/-- The sentinel of a durable transfer with the commit stage's answer at hand (rule R161). -/
theorem durableStop_answered {v : Bytes} {p : State} {a : CommitAnswer} {more : List CommitAnswer}
    (closes : Closes .durable v p) (answer : p.commitIn = a :: more) :
    durableStop p =
      .done () (commitEnd (crc16 v) (commitLen p.cfg v.length) a { commitRequested v p with commitIn := more }) := by
  rw [durableStop, ingestStopD_answered closes answer, andThen_done, ← cursor_durable, ← closes.length]
  cases a <;> rfl

/-- Both answers return the block to Idle; they differ in the last event (rule R161). -/
theorem commitEnd_eq (crc : Half) (length : Nat) (a : CommitAnswer) (p : State) :
    commitEnd crc length a p =
      { p with
        session := 0b00#2
        trace := p.trace ++ [.commitResponse a,
          if a = .ok then .replyOut (fnshReply crc) else .errEvt (.commitFailure crc length)] } := by
  rw [← commitEnd_trace]
  cases a <;> rfl

theorem exec_dispatchSdStop_answered {s : State} {b : Bytes} {rest : List Bytes} {v : Bytes} {a : CommitAnswer}
    {more : List CommitAnswer} (ready : Ready s b rest) (closes : Closes .durable v s)
    (answer : s.commitIn = a :: more) :
    exec .dispatchSdStop s = .next (epilogue (commitEnd (crc16 v) (commitLen s.cfg v.length) a
      { commitRequested v (prologue b { s with chunkIn := rest }) with commitIn := more })) := by
  rw [exec_dispatchSdStop ready, durableStop_answered (closes.prologue b rest) (by simpa using answer), finish_done,
    prologue_cfg]

/-- Settles O17: the request, its answer, and what the answer decides, between prologue and epilogue. -/
theorem durableStopCommits : Obligations.DurableStopCommits := by
  intro s b rest v a more ready length room bytes answer
  refine ⟨_, ?_, storedAt_memSetN _ _ _⟩
  rw [exec_dispatchSdStop_answered ready ⟨length, bytes, room⟩ answer, commitEnd_eq]
  obtain ⟨scratch, scratchLen, hp⟩ := prologue_eq b { s with chunkIn := rest }
  rw [hp]
  simp [commitRequested, closed, concluded, epilogue, emit]

/-- Settles O18, from the state in which DISPATCH_SD_STOP waits. -/
theorem durableStopWaitsForTheCommit : Obligations.DurableStopWaitsForTheCommit := by
  intro s b rest v ready clear short length room bytes empty
  refine ⟨_, ?_, storedAt_memSetN _ _ _⟩
  rw [exec_dispatchSdStop_waits ready ⟨length, bytes, room⟩ empty, prologue_eq_loaded clear short, length]
  simp [awaitingCommit, loaded, closed, emit]

/-! ### Where no chunk can be accepted -/

theorem route_idle {s : State} (live : Live s) (noChunk : s.phase ≠ .between ∨ s.chunkIn = []) (session : BitVec 2)
    (long stop : Bool) : route session long stop s = .next s := by
  unfold route
  split_ifs <;> exact dispatchOp_idle live noChunk

/-- Settles O26: whichever dispatch operation a selector names, it accepts no chunk. -/
theorem busyBlockAcceptsNoChunk : Obligations.BusyBlockAcceptsNoChunk := by
  intro s v live noChunk
  obtain ⟨session, long, stop, rfl⟩ := dselWord_surjective v
  rw [exec_decodeDsel, route_idle live noChunk]

end Sys2Proof.Machine
end

section
/-! SUPPORT. The statements about the waits (rules R167 to R169): a step at a wait is `waitOn`; without an input it
holds, and an answer that comes late leads to the state that it would have led to at once. -/

namespace Sys2Proof.Machine

/-! ### A step at a wait -/

theorem step_waitParse {s : State} (live : Live s) (waits : s.phase = .waitParse) :
    step s = waitOn s.parseIn (fun a s => resumeParse a { s with parseIn := s.parseIn.tail }) s := by
  rw [step, operate_live live, ← waitStep_parse waits]
  simp only [waits]

theorem step_waitCommit {s : State} {crc : Half} {length : Nat} {before : Memory} (live : Live s)
    (waits : s.phase = .waitCommit crc length before) :
    step s = waitOn s.commitIn (fun a s => resumeCommit crc length a { s with commitIn := s.commitIn.tail }) s := by
  rw [step, operate_live live, ← waitStep_commit waits]
  simp only [waits]

theorem waitOn_nil {α : Type} {s : State} (noRst : s.rstIn = false)
    (resume : α → State → Host.Outcome State Fault Refusal) : waitOn [] resume s = .next s := by
  simp [waitOn, noRst]

theorem waitOn_cons {α : Type} {s : State} (noRst : s.rstIn = false) (a : α) (more : List α)
    (resume : α → State → Host.Outcome State Fault Refusal) : waitOn (a :: more) resume s = resume a s := by
  simp [waitOn, noRst]

theorem step_waitParse_answered {s : State} {a : ParseAnswer} {more : List ParseAnswer} (live : Live s)
    (waits : s.phase = .waitParse) (noRst : s.rstIn = false) (answer : s.parseIn = a :: more) :
    step s = resumeParse a { s with parseIn := more } := by
  rw [step_waitParse live waits, answer, waitOn_cons noRst, answer, List.tail_cons]

theorem step_waitCommit_answered {s : State} {crc : Half} {length : Nat} {before : Memory} {a : CommitAnswer}
    {more : List CommitAnswer} (live : Live s) (waits : s.phase = .waitCommit crc length before)
    (noRst : s.rstIn = false) (answer : s.commitIn = a :: more) :
    step s = resumeCommit crc length a { s with commitIn := more } := by
  rw [step_waitCommit live waits, answer, waitOn_cons noRst, answer, List.tail_cons]

/-- Settles O32: no operation is next without a chunk, and no wait ends without an answer. -/
theorem stepWaitsForAnInput : Obligations.StepWaitsForAnInput := by
  intro s live noRst
  refine ⟨fun between noChunk => ?_, fun waits empty => ?_, fun crc length before waits empty => ?_⟩
  · rw [step, operate_live live]
    simp [between, nextOperation, noRst, noChunk]
  · rw [step_waitParse live waits, empty, waitOn_nil noRst]
  · rw [step_waitCommit live waits, empty, waitOn_nil noRst]

/-! ### Late answers -/

theorem set_phase_between {s : State} (between : s.phase = .between) : { s with phase := .between } = s := by
  rw [← between]

theorem Live.deliver {s : State} (live : Live s) (i : Input) : Live (deliver i s) := by
  cases i <;> exact ⟨live.cfg, live.fault⟩

theorem Live.prologue {s : State} (live : Live s) (b : Bytes) (rest : List Bytes) :
    Live (prologue b { s with chunkIn := rest }) :=
  ⟨by simpa using live.cfg, by simpa using live.fault⟩

/-- The acceptance of a chunk does not ask for the answers at the ports. -/
theorem Ready.deliver {s : State} {b : Bytes} {rest : List Bytes} (ready : Ready s b rest) {i : Input}
    (noChunk : (deliver i s).chunkIn = s.chunkIn) : Ready (deliver i s) b rest :=
  ⟨ready.live.deliver i, by cases i <;> exact ready.phase, noChunk.trans ready.chunk⟩

/-- The prologue is given its chunk and asks nothing more of the ports: an input can as well arrive after it. -/
theorem prologue_deliver (b : Bytes) (i : Input) (s : State) :
    prologue b (deliver i s) = deliver i (prologue b s) := by
  cases i <;> by_cases short : b.length ≤ s.cfg.F <;> simp [prologue, scratchLoad, deliver, emit, short]

/-- A DISPATCH_CMD that waits takes the answer in the state that its request left (rule R168). -/
theorem step_awaitingParse {p : State} (live : Live p) (between : p.phase = .between) (noRst : p.rstIn = false)
    (empty : p.parseIn = []) (a : ParseAnswer) :
    step (deliver (.parseAnswer a) (awaitingParse p)) =
      finish (parseAnswered a { parseRequested p with parseIn := [] }) := by
  have live' : Live (awaitingParse p) := ⟨live.cfg, live.fault⟩
  have between' : ({ parseRequested p with parseIn := [] } : State).phase = .between := between
  rw [step_waitParse_answered (live'.deliver (.parseAnswer a)) rfl noRst (congrArg (· ++ [a]) empty), resumeParse,
    ← set_phase_between between']
  rfl

theorem exec_dispatchCmd_deliver {s : State} {b : Bytes} {rest : List Bytes} (ready : Ready s b rest)
    (empty : s.parseIn = []) (a : ParseAnswer) (sent : Bool) :
    exec (.dispatchCmd sent) (deliver (.parseAnswer a) s) =
      finish (parseAnswered a { parseRequested (prologue b { s with chunkIn := rest }) with parseIn := [] }) := by
  have hp : prologue b { deliver (.parseAnswer a) s with chunkIn := rest } =
      deliver (.parseAnswer a) (prologue b { s with chunkIn := rest }) :=
    prologue_deliver b (.parseAnswer a) { s with chunkIn := rest }
  have ready' : Ready (deliver (.parseAnswer a) s) b rest := ready.deliver rfl
  rw [exec_dispatchCmd_answered ready' (congrArg (· ++ [a]) empty), hp]
  rfl

/-- Settles O33: late or at once, the answer is taken in the state that the request left. -/
theorem lateParserAnswerIsTheSame : Obligations.LateParserAnswerIsTheSame := by
  intro s b rest a sent ready noRst empty
  refine ⟨_, exec_dispatchCmd_waits ready empty sent, rfl, ?_⟩
  rw [exec_dispatchCmd_deliver ready empty, step_awaitingParse (ready.live.prologue b rest)
    (by simpa using ready.phase) (by simpa using noRst) (by simpa using empty)]

theorem awaitingCommit_eq {v : Bytes} {p : State} (closes : Closes .durable v p) :
    awaitingCommit v p =
      { commitRequested v p with phase := .waitCommit (crc16 v) (commitLen p.cfg v.length) p.acc } := by
  rw [commitRequested, closes.length]
  rfl

/-- A DISPATCH_SD_STOP that waits takes the answer in the state that its request left (rule R169). -/
theorem step_awaitingCommit {v : Bytes} {p : State} (closes : Closes .durable v p) (live : Live p)
    (between : p.phase = .between) (noRst : p.rstIn = false) (empty : p.commitIn = []) (a : CommitAnswer) :
    step (deliver (.commitAnswer a) (awaitingCommit v p)) =
      .next (epilogue (commitEnd (crc16 v) (commitLen p.cfg v.length) a
        { commitRequested v p with commitIn := [] })) := by
  have live' : Live (awaitingCommit v p) := ⟨live.cfg, live.fault⟩
  have between' : ({ commitRequested v p with commitIn := [] } : State).phase = .between := between
  rw [awaitingCommit_eq closes] at live' ⊢
  rw [step_waitCommit_answered (live'.deliver (.commitAnswer a)) rfl noRst (congrArg (· ++ [a]) empty), resumeCommit,
    commitAnswered_andThen, finish_done, ← set_phase_between between']
  rfl

theorem exec_dispatchSdStop_deliver {s : State} {b : Bytes} {rest : List Bytes} {v : Bytes} (ready : Ready s b rest)
    (closes : Closes .durable v s) (empty : s.commitIn = []) (a : CommitAnswer) :
    exec .dispatchSdStop (deliver (.commitAnswer a) s) =
      .next (epilogue (commitEnd (crc16 v) (commitLen s.cfg v.length) a
        { commitRequested v (prologue b { s with chunkIn := rest }) with commitIn := [] })) := by
  have closes' : Closes .durable v (deliver (.commitAnswer a) s) := ⟨closes.length, closes.bytes, closes.room⟩
  have hp : prologue b { deliver (.commitAnswer a) s with chunkIn := rest } =
      deliver (.commitAnswer a) (prologue b { s with chunkIn := rest }) :=
    prologue_deliver b (.commitAnswer a) { s with chunkIn := rest }
  have ready' : Ready (deliver (.commitAnswer a) s) b rest := ready.deliver rfl
  rw [exec_dispatchSdStop_answered ready' closes' (congrArg (· ++ [a]) empty), hp]
  rfl

/-- Settles O34: late or at once, the answer is taken in the state that the request left. -/
theorem lateCommitAnswerIsTheSame : Obligations.LateCommitAnswerIsTheSame := by
  intro s b rest v a ready noRst empty length room bytes
  have closes : Closes .durable v s := ⟨length, bytes, room⟩
  refine ⟨_, exec_dispatchSdStop_waits ready closes empty, by simp [awaitingCommit], ?_⟩
  rw [exec_dispatchSdStop_deliver ready closes empty, step_awaitingCommit (closes.prologue b rest)
    (ready.live.prologue b rest) (by simpa using ready.phase) (by simpa using noRst) (by simpa using empty),
    prologue_cfg]

end Sys2Proof.Machine
end

section
/-! SUPPORT. What a step does to SESSION (rule R166) and how many replies it sends (rule R170), from the ways in which
it can go. -/

namespace Sys2Proof.Machine

/-! ### SESSION after the parts of an operation -/

@[simp] theorem parseEnd_session (a : ParseAnswer) (p : State) :
    (parseEnd a p).session = transitionTarget a p.session := rfl

@[simp] theorem completed_session (res : IngestResult) (s : State) : (completed res s).session = 0b00#2 := by
  cases res <;> rfl

@[simp] theorem commitEnd_session (crc : Half) (length : Nat) (a : CommitAnswer) (p : State) :
    (commitEnd crc length a p).session = 0b00#2 := by cases a <;> rfl

@[simp] theorem closed_session (d : Dest) (v : Bytes) (p : State) : (closed d v p).session = p.session := by
  cases d <;> rfl

@[simp] theorem resetOp_session (s : State) : (resetOp s).session = 0b00#2 := rfl

/-! ### How SESSION can change -/

/-- From `s` to `t` SESSION is unchanged, becomes Idle, or goes from Idle to the streaming state that a parser's answer
among the new events names (rule R166). -/
def SessionMoves (s t : State) : Prop :=
  t.session = s.session ∨ t.session = 0b00#2 ∨
    (s.session = 0b00#2 ∧ ∃ a events, t.trace = s.trace ++ events ∧ Event.parseResponse a ∈ events ∧
      (a.transition = 1#2 ∧ t.session = 0b01#2 ∨ a.transition = 2#2 ∧ t.session = 0b10#2))

theorem SessionMoves.of_transition {s t : State} {a : ParseAnswer} {events : List Event} (idle : s.session = 0b00#2)
    (session : t.session = transitionTarget a s.session) (trace : t.trace = s.trace ++ events)
    (response : Event.parseResponse a ∈ events) : SessionMoves s t := by
  unfold transitionTarget at session
  split_ifs at session with toVolatile toDurable
  · exact .inr (.inr ⟨idle, a, events, trace, response, .inl ⟨toVolatile, session⟩⟩)
  · exact .inr (.inr ⟨idle, a, events, trace, response, .inr ⟨toDurable, session⟩⟩)
  · exact .inl session

/-- The prologue leaves SESSION alone and adds to the trace. -/
theorem SessionMoves.of_prologue {s t : State} {b : Bytes} {rest : List Bytes}
    (h : SessionMoves (prologue b { s with chunkIn := rest }) t) : SessionMoves s t := by
  rcases h with same | toIdle | ⟨idle, a, events, trace, response, target⟩
  · exact .inl (by simpa using same)
  · exact .inr (.inl toIdle)
  · exact .inr (.inr ⟨by simpa using idle, a, [.chunkIn b, .audioPause] ++ events, by simpa using trace,
      by simpa using response, target⟩)

theorem Ran.sessionMoves {long stop : Bool} {p t : State} (ran : Ran long stop p t) : SessionMoves p t := by
  cases ran with
  | parsed a more idle =>
    exact .of_transition (a := a) (events := [.parseRequest (commandLine p) p.scratchLen.toNat, .parseResponse a,
      .replyOut a.reply, .audioResume]) idle (by simp) (by simp) (by simp)
  | rejected => exact .inr (.inl (by simp))
  | aborted => exact .inr (.inl (by simp))
  | overflowed => exact .inr (.inl (by simp))
  | completedV => exact .inr (.inl (by simp))
  | committedD => exact .inr (.inl (by simp))
  | _ => exact .inl (by simp)

theorem Moves.sessionMoves {s t : State} (moves : Moves s t) (h : BlockInv s) : SessionMoves s t := by
  cases moves with
  | holds => exact .inl rfl
  | resets => exact .inr (.inl rfl)
  | runs b rest _ ready noRst ran => exact ran.sessionMoves.of_prologue
  | parses a more k waits =>
    exact .of_transition (a := a) (events := [.parseResponse a, .replyOut a.reply, .audioResume]) (h.waitParse waits)
      (by simp) (by simp) (by simp)
  | breaksContract => exact .inl (by simp)
  | commits => exact .inr (.inl (by simp))

/-- Settles O44: a wait for the parser is a wait in Idle, so that an answer finds SESSION there. -/
theorem sessionTransitions : Obligations.SessionTransitions :=
  fun _ _ h hstep => (step_moves hstep).2.sessionMoves h

/-! ### Replies -/

/-- From `s` to `t` the trace has grown by at most one reply, among other events. -/
structure RepliesAtMostOnce (s t : State) : Prop where
  grows : s.trace <+: t.trace
  count : t.trace.countP Event.isReply ≤ s.trace.countP Event.isReply + 1

theorem RepliesAtMostOnce.events {s t : State} (h : RepliesAtMostOnce s t) :
    ∃ events, t.trace = s.trace ++ events ∧ events.countP Event.isReply ≤ 1 := by
  obtain ⟨events, htrace⟩ := h.grows
  refine ⟨events, htrace.symm, ?_⟩
  have hcount := h.count
  rwa [← htrace, List.countP_append, Nat.add_le_add_iff_left] at hcount

/-- The prologue itself sends no reply (rules R150 and R151). -/
theorem RepliesAtMostOnce.of_prologue {s t : State} {b : Bytes} {rest : List Bytes}
    (h : RepliesAtMostOnce (prologue b { s with chunkIn := rest }) t) : RepliesAtMostOnce s t := by
  obtain ⟨grows, count⟩ := h
  rw [prologue_trace] at grows count
  refine ⟨(List.prefix_append _ _).trans grows, ?_⟩
  simpa [Event.isReply] using count

theorem Ran.repliesAtMostOnce {long stop : Bool} {p t : State} (ran : Ran long stop p t) :
    RepliesAtMostOnce p t := by
  cases ran with
  | committedD v a => exact ⟨by simp, by cases a <;> simp [Event.isReply, List.countP_cons]⟩
  | _ => exact ⟨by simp, by simp [Event.isReply, List.countP_cons]⟩

theorem Moves.repliesAtMostOnce {s t : State} (moves : Moves s t) : RepliesAtMostOnce s t := by
  cases moves with
  | runs b rest _ ready noRst ran => exact ran.repliesAtMostOnce.of_prologue
  | resets => exact ⟨by simp, by cases s.phase <;> simp [Event.isReply]⟩
  | commits a => exact ⟨by simp, by cases a <;> simp [Event.isReply, List.countP_cons]⟩
  | _ => exact ⟨by simp, by simp [Event.isReply, List.countP_cons]⟩

/-- Settles O46, by cases on the ways in which a step can go. -/
theorem atMostOneReplyAStep : Obligations.AtMostOneReplyAStep :=
  fun _ _ hstep => (step_moves hstep).2.repliesAtMostOnce.events

end Sys2Proof.Machine
end

section
/-! SUPPORT. The statements about resets and faults (spec/60_exceptions.md): between operations RST comes before a chunk
(rule R208), and in a run only a parser's answer with code 3 sets FAULT (rule R205). -/

namespace Sys2Proof.Machine

/-! ### RST between operations -/

theorem nextOperation_of_rst {s : State} (rst : s.rstIn = true) : nextOperation s = some .reset := if_pos rst

/-- Settles O31: the operation taken next is RESET, whatever chunks are offered. -/
theorem stepTakesResetBeforeAChunk : Obligations.StepTakesResetBeforeAChunk := by
  intro s live between rst
  rw [step, operate_live live]
  simp only [between, nextOperation_of_rst rst]

/-! ### Which faults a run meets -/

/-- FAULT is 0, or it is PARSER_CONTRACT and the parser's answer that broke its contract is in the trace. -/
def FaultIsTheParsers (s : State) : Prop :=
  s.fault = none ∨ (s.fault = some .parserContract ∧ ∃ a, Event.parseResponse a ∈ s.trace ∧ a.transition = 3#2)

theorem FaultIsTheParsers.of_response {s : State} {a : ParseAnswer} (fault : s.fault = some .parserContract)
    (response : Event.parseResponse a ∈ s.trace) (illegal : a.transition = 3#2) : FaultIsTheParsers s :=
  .inr ⟨fault, a, response, illegal⟩

/-- Under the invariant the other ways to set FAULT are shut: what a transfer stores or reads lies inside ACC and has a
value, and SESSION is legal. -/
theorem Ran.faultIsTheParsers {long stop : Bool} {p t : State} (ran : Ran long stop p t) (h : RunInv p)
    (fault : p.fault = none) : FaultIsTheParsers t := by
  cases ran with
  | brokenContract a more idle short answer illegal => exact .of_response (a := a) rfl (by simp) illegal
  | badPayload d streams short data fits outside => exact absurd (h.payload_inside fits) outside.not_ge
  | badTransfer d c streams short sentinel bad =>
    rcases bad with noRoom | noValue
    · exact absurd (h.trailer_inside d) noRoom.not_ge
    · exact absurd noValue (h.payload_written d)
  | reserved session => exact absurd session h.sessionLegal
  | _ => exact .inl (by simpa using fault)

theorem Moves.faultIsTheParsers {s t : State} (moves : Moves s t) (h : BlockInv s) (fault : s.fault = none) :
    FaultIsTheParsers t := by
  cases moves with
  | runs b rest _ ready noRst ran => exact ran.faultIsTheParsers (h.run.prologue b rest) (by simpa using fault)
  | breaksContract a more k waits answer illegal => exact .of_response (a := a) rfl (by simp) illegal
  | _ => exact .inl (by simpa using fault)

/-- An input reaches a port, and neither FAULT nor the trace. -/
theorem FaultIsTheParsers.deliver {s : State} (h : FaultIsTheParsers s) (i : Input) :
    FaultIsTheParsers (deliver i s) := by
  cases i <;> exact h

/-! ### Runs -/

theorem Reachable.blockInv {s : State} (run : Reachable s) : BlockInv s := by
  induction run with
  | boot c hc => exact blockInv_powerUp hc
  | input i s _ ih => exact ih.deliver i
  | step s t _ hstep ih => exact (step_moves hstep).2.blockInv ih

/-- A step begins with FAULT = 0 (rule R28), so that what set FAULT is in the last step of the run. -/
theorem Reachable.faultIsTheParsers {s : State} (run : Reachable s) : FaultIsTheParsers s := by
  induction run with
  | boot c hc => exact .inl rfl
  | input i s _ ih => exact ih.deliver i
  | step s t before hstep _ =>
    obtain ⟨live, moves⟩ := step_moves hstep
    exact moves.faultIsTheParsers before.blockInv live.fault

/-- Settles O43, by induction on the run. -/
theorem reachableFaultsAreTheParsers : Obligations.ReachableFaultsAreTheParsers :=
  fun _ run => run.faultIsTheParsers

end Sys2Proof.Machine
end

section
/-! SUPPORT. The statements about reset and hazards (spec/70_reset_and_hazards.md): what RESET leaves, between operations
and at a wait (rules R230 and R231), and the audio bracket as an invariant of steps and inputs (rule R247). -/

namespace Sys2Proof.Machine

/-! ### RESET -/

/-- RESET with its whole frame, whatever was in flight (rule R230). -/
theorem resetOp_eq (s : State) :
    resetOp s =
      { s with
        session := 0b00#2
        curV := 0
        curD := 0
        crc := Config.freeCrc s.draws
        scratch := zeros s.cfg.F
        scratchLen := 0
        phase := .between
        rstIn := false
        draws := s.draws + 1
        trace := s.trace ++ [.rst] ++ (if s.phase = .between then [] else [.audioResume]) } := by
  unfold resetOp
  cases s.phase <;> simp [emit]

/-- Settles O27: a live state runs the operation, and CRC takes the free value. -/
theorem resetTakesTheResetValues : Obligations.ResetTakesTheResetValues := fun s live =>
  ⟨Config.freeCrc s.draws, (execReset_live live).trans (congrArg _ (resetOp_eq s))⟩

theorem waitOn_rst {α : Type} {s : State} (rst : s.rstIn = true)
    (resume : α → State → Host.Outcome State Fault Refusal) : waitOn [] resume s = execReset s := by
  simp [waitOn, rst]

/-- At a wait without an answer, RST is what the step takes (rule R231). -/
theorem step_wait_rst {s : State} (live : Live s) (rst : s.rstIn = true)
    (waits : s.phase = .waitParse ∧ s.parseIn = [] ∨
      ∃ crc length before, s.phase = .waitCommit crc length before ∧ s.commitIn = []) :
    step s = .next (resetOp s) := by
  rw [← execReset_live live]
  rcases waits with ⟨waits, empty⟩ | ⟨crc, length, before, waits, empty⟩
  · rw [step_waitParse live waits, empty, waitOn_rst rst]
  · rw [step_waitCommit live waits, empty, waitOn_rst rst]

/-- Settles O35: the step is RESET, and the operation that it abandons has its pause closed. -/
theorem resetAbandonsAWait : Obligations.ResetAbandonsAWait := by
  intro s live rst waits
  have busy : s.phase ≠ .between := by
    rcases waits with ⟨waits, -⟩ | ⟨crc, length, before, waits, -⟩ <;> simp [waits]
  refine ⟨_, step_wait_rst live rst waits, ?_⟩
  simp [resetOp_eq, busy, live.fault]

/-! ### The audio bracket -/

/-- Between operations, without a model fault, no pause is open. -/
theorem AudioBracket.idle {s : State} (h : AudioBracket s) (between : s.phase = .between) (fault : s.fault = none) :
    audioOpen s.trace = some false := by
  simpa [AudioBracket, between, fault] using h

/-- While an operation waits its pause is open. -/
theorem AudioBracket.waits {s : State} (h : AudioBracket s) (busy : s.phase ≠ .between) :
    audioOpen s.trace = some true := by
  simpa [AudioBracket, busy] using h

/-- An open pause is as it should be while an operation waits and after a model fault. -/
theorem audioBracket_of_open {s : State} (paused : audioOpen s.trace = some true)
    (stopped : s.phase ≠ .between ∨ s.fault ≠ none) : AudioBracket s := by
  rw [AudioBracket, paused, decide_eq_true stopped]

/-- The epilogue closes the pause of the operation that it ends (rule R165). -/
theorem audioBracket_epilogue {s : State} (paused : audioOpen s.trace = some true) (between : s.phase = .between)
    (fault : s.fault = none) : AudioBracket (epilogue s) := by
  simp [AudioBracket, audioStep, paused, between, fault]

/-- The end of a DISPATCH_SD_STOP leaves its pause open for the epilogue, whichever the answer. -/
theorem audioOpen_commitEnd (crc : Half) (length : Nat) (a : CommitAnswer) (p : State) :
    audioOpen (commitEnd crc length a p).trace = audioOpen p.trace := by
  cases a <;> simp [audioStep]

/-- The prologue opens a pause (rule R151). -/
theorem audioOpen_prologue {s : State} (closed : audioOpen s.trace = some false) (b : Bytes) (rest : List Bytes) :
    audioOpen (prologue b { s with chunkIn := rest }).trace = some true := by
  simp [audioStep, closed]

/-- From an open pause a dispatch operation ends in its epilogue, which closes it, or in a wait or with a model fault,
which leave it open. -/
theorem Ran.audioBracket {long stop : Bool} {p t : State} (ran : Ran long stop p t)
    (paused : audioOpen p.trace = some true) (between : p.phase = .between) (fault : p.fault = none) :
    AudioBracket t := by
  cases ran with
  | waitsParse => exact audioBracket_of_open (by simp [audioStep, paused]) (.inl (by simp))
  | waitsCommit => exact audioBracket_of_open (by simp [audioStep, paused]) (.inl (by simp))
  | brokenContract => exact audioBracket_of_open (by simp [audioStep, paused]) (.inr (by simp))
  | badPayload => exact audioBracket_of_open paused (.inr (by simp))
  | badTransfer => exact audioBracket_of_open paused (.inr (by simp))
  | reserved => exact audioBracket_of_open paused (.inr (by simp))
  | committedD v a more =>
    exact audioBracket_epilogue (by rw [audioOpen_commitEnd]; simp [audioStep, paused])
      (by simpa using between) (by simpa using fault)
  | _ =>
    exact audioBracket_epilogue (by simp [audioStep, paused]) (by simpa using between)
      (by simpa using fault)

/-- RESET leaves no pause open: none was, or it closes that of the operation it abandons (rule R230). -/
theorem AudioBracket.resetOp {s : State} (h : AudioBracket s) (fault : s.fault = none) :
    AudioBracket (resetOp s) := by
  by_cases between : s.phase = .between
  · simp [AudioBracket, audioStep, between, h.idle between fault, fault]
  · simp [AudioBracket, audioStep, between, h.waits between, fault]

theorem Moves.audioBracket {s t : State} (moves : Moves s t) (h : AudioBracket s) (fault : s.fault = none) :
    AudioBracket t := by
  cases moves with
  | holds => exact h
  | resets k rst => exact AudioBracket.resetOp (s := { s with draws := k }) h fault
  | runs b rest _ ready noRst ran =>
    exact ran.audioBracket (audioOpen_prologue (h.idle ready.phase fault) b rest) (by simpa using ready.phase)
      (by simpa using fault)
  | parses a more k waits =>
    have paused := h.waits (by simp [waits])
    exact audioBracket_epilogue (by simpa [audioStep] using paused) rfl fault
  | breaksContract a more k waits =>
    have paused := h.waits (by simp [waits])
    exact audioBracket_of_open (by simpa [audioStep] using paused) (.inr (by simp))
  | commits a more k crc length before waits =>
    have paused := h.waits (by simp [waits])
    exact audioBracket_epilogue ((audioOpen_commitEnd crc length a _).trans paused) (by simp) (by simpa using fault)

/-- An input reaches a port, and neither the trace nor the operation in flight. -/
theorem AudioBracket.deliver {s : State} (h : AudioBracket s) (i : Input) : AudioBracket (deliver i s) := by
  cases i <;> exact h

/-- Settles O45, by cases on the ways in which a step can go and on the inputs; a step begins with FAULT = 0. -/
theorem stepKeepsTheAudioBracket : Obligations.StepKeepsTheAudioBracket :=
  ⟨fun _ _ h hstep =>
      have ⟨live, moves⟩ := step_moves hstep
      moves.audioBracket h live.fault,
    fun _ i h => h.deliver i⟩

end Sys2Proof.Machine
end

section
/-! SUPPORT. The statement about RST and an awaited answer that are there together: which one a step at a wait takes is
left open by a free value (notes/assumptions/6.md). -/

namespace Sys2Proof.Machine

/-- With RST and an answer both there a wait takes one of the two, and the counter of free values advances. -/
theorem waitOn_cons_rst {α : Type} {s : State} (rst : s.rstIn = true) (a : α) (more : List α)
    (resume : α → State → Host.Outcome State Fault Refusal) :
    waitOn (a :: more) resume s = exec .reset { s with draws := s.draws + 1 } ∨
      waitOn (a :: more) resume s = resume a { s with draws := s.draws + 1 } := by
  simp only [waitOn, rst]
  split
  · exact .inl rfl
  · exact .inr rfl

/-- Settles O36: either wait is a `waitOn`, and the answer that it takes leaves its queue. -/
theorem resetWithAnAnswerIsEither : Obligations.ResetWithAnAnswerIsEither := by
  intro s live rst
  refine ⟨fun a more waits answer => ?_, fun crc length before a more waits answer => ?_⟩
  · rw [step_waitParse live waits, answer]
    simpa only [answer, List.tail_cons] using
      waitOn_cons_rst rst a more (fun a s => resumeParse a { s with parseIn := s.parseIn.tail })
  · rw [step_waitCommit live waits, answer]
    simpa only [answer, List.tail_cons] using
      waitOn_cons_rst rst a more (fun a s => resumeCommit crc length a { s with commitIn := s.commitIn.tail })

end Sys2Proof.Machine
end
